-- ==== Sys2Proof/Word.lean ====
section
/-! DEFINITION. The word types of RSCORE (10_state.md rules R21, R23; 30_encoding.md rule R80). -/

namespace Sys2Proof

/-- A field element, a lane of a polynomial register or a byte of `BUF` (00_scope.md rule R10). -/
abbrev Byte := BitVec 8

/-- The contents of a scalar register (10_state.md rule R21). -/
abbrev Scalar := BitVec 16

/-- A command word, and the width of a host register access (30_encoding.md rule R80). -/
abbrev Word := BitVec 32

/-- A polynomial value or a list: lane `i` is the coefficient of x^i, or entry `i`
(00_scope.md rule R10, 10_state.md rule R24). -/
abbrev Poly := List Byte

/-- The number of a scalar register, `R0` to `R15` (10_state.md rule R21). -/
abbrev RIx := Fin 16

/-- The number of a polynomial register, `P0` to `P15` (10_state.md rule R23). -/
abbrev PIx := Fin 16

end Sys2Proof
end

