-- ==== Sys2Proof/Syntax.lean ====
section
/-! DEFINITION. The 34 commands (30_encoding.md rule R82), one constructor per row of
`opcode_table.json`, and the pseudo-instructions of rule R90 that expand to them. -/

namespace Sys2Proof

/-- One command. The arguments stand in the order of the fields `A`, `B`, `C`, `D`, `E`, `F` of rule
R82, destinations first. -/
inductive Instr where
  | li     (d : RIx) (imm : Scalar)
  | ldp    (d : PIx) (a b : RIx)
  | stp    (a : PIx) (b : RIx)
  | ldl    (d : PIx) (a b : RIx)
  | stl    (a : PIx) (b : RIx)
  | pmov   (d a : PIx)
  | plen   (d : RIx) (a : PIx)
  | pdeg   (d : RIx) (a : PIx)
  | ptrim  (d a : PIx)
  | gfadd  (d a b : RIx)
  | gfmul  (d a b : RIx)
  | gfinv  (d a : RIx)
  | gfpow  (d a b : RIx)
  | gflog  (d a : RIx)
  | gfexp  (d a : RIx)
  | padd   (d a b : PIx)
  | pmul   (d a b : PIx)
  | pscale (d a : PIx) (b : RIx)
  | pdiv   (q r a b : PIx)
  | peval  (d : RIx) (a : PIx) (b : RIx)
  | pderiv (d a : PIx)
  | synd   (d a : PIx)
  | eraloc (d e : PIx)
  | omega  (d x l : PIx)
  | xgcd   (u v r a b : PIx)
  | sugi   (u v r a b : PIx) (c : RIx)
  | eloc   (d x e : PIx) (validate : Bool)
  | bmloc  (d x e : PIx) (validate : Bool)
  | froots (d a : PIx)
  | getpos (d a : PIx)
  | forney (d l o pp : PIx)
  | filler (d a pp : PIx)
  | apply  (d a pp m : PIx)
  | rsdec  (d a e : PIx)
  deriving DecidableEq, Repr

/-- The pseudo-instructions (30_encoding.md rule R90). -/
inductive Pseudo where
  | psub  (d a b : PIx)
  | gfsub (d a b : RIx)
  | pzero (d : PIx)
  | eloc  (d x e : PIx)
  | bmloc (d x e : PIx)
  deriving DecidableEq, Repr

end Sys2Proof
end

