-- ==== Sys2Proof/WellFormed.lean ====
section
/-! DEFINITION. The commands that have an encoding: test (4) of 30_encoding.md rule R85. Every other
bound of a field is the type of the constructor's argument. -/

namespace Sys2Proof

/-- Two destinations of one command are different registers (30_encoding.md rules R85 (4), R88). -/
def Instr.wellFormed : Instr → Bool
  | .pdiv q r _ _ => q ≠ r
  | .xgcd u v r _ _ => u ≠ v ∧ u ≠ r ∧ v ≠ r
  | .sugi u v r _ _ _ => u ≠ v ∧ u ≠ r ∧ v ≠ r
  | .li _ _ | .ldp _ _ _ | .stp _ _ | .ldl _ _ _ | .stl _ _ | .pmov _ _ | .plen _ _ | .pdeg _ _
  | .ptrim _ _ | .gfadd _ _ _ | .gfmul _ _ _ | .gfinv _ _ | .gfpow _ _ _ | .gflog _ _ | .gfexp _ _
  | .padd _ _ _ | .pmul _ _ _ | .pscale _ _ _ | .peval _ _ _ | .pderiv _ _ | .synd _ _ | .eraloc _ _
  | .omega _ _ _ | .eloc _ _ _ _ | .bmloc _ _ _ _ | .froots _ _ | .getpos _ _ | .forney _ _ _ _
  | .filler _ _ _ | .apply _ _ _ _ | .rsdec _ _ _ => true

end Sys2Proof
end

