-- ==== Sys2Proof/Decode.lean ====
section
/-! DEFINITION. Decoding a command word (30_encoding.md rules R80 to R86), then the encoder written from the
same table (rule R82), and the expansion of the pseudo-instructions (rule R90). -/

namespace Sys2Proof

/-- Why a word is no command: the four tests of 30_encoding.md rule R85, in its order. -/
inductive Illegal where
  | opcode            -- (1) `w[31:24]` is no opcode of rule R82
  | reservedField     -- (2) a field that must be 0 is not
  | validateBit       -- (3) field `D` of ELOC or BMLOC is neither 0 nor 1
  | sameDestination   -- (4) two destinations of PDIV, XGCD or SUGI are the same register
  deriving DecidableEq, Repr

/-- The opcode `w[31:24]` (30_encoding.md rule R80). -/
def opcodeOf (w : Word) : Nat := w.toNat / 2 ^ 24

/-- The 4-bit field of `w` whose lowest bit is `lo` (30_encoding.md rule R80). -/
def fieldAt (w : Word) (lo : Nat) : Fin 16 := ⟨w.toNat / 2 ^ lo % 16, Nat.mod_lt _ (by decide)⟩

/-- `imm16` = `w[15:0]` (30_encoding.md rule R81). -/
def immOf (w : Word) : Scalar := BitVec.ofNat 16 w.toNat

/-- The lowest `k` bits of `w` are 0: the fields from some letter to `F` (30_encoding.md rule R85 (2)). -/
def lowZero (w : Word) (k : Nat) : Bool := w.toNat % 2 ^ k == 0

/-- Test (2) of rule R85, then the command. -/
def plain (w : Word) (k : Nat) (i : Instr) : Except Illegal Instr :=
  if lowZero w k then .ok i else .error .reservedField

/-- Tests (2) and (4) of rule R85, then the command. -/
def distinctDest (w : Word) (k : Nat) (i : Instr) : Except Illegal Instr :=
  if lowZero w k then (if i.wellFormed then .ok i else .error .sameDestination) else .error .reservedField

/-- Tests (2) and (3) of rule R85, then the command with its validate bit V (field `D`). -/
def withValidate (w : Word) (i : Bool → Instr) : Except Illegal Instr :=
  if lowZero w 8 then
    (if (fieldAt w 8).val ≤ 1 then .ok (i ((fieldAt w 8).val == 1)) else .error .validateBit)
  else .error .reservedField

/-- The command a word stands for, or the test of rule R85 it fails first. It is total and reads no state. -/
def decode (w : Word) : Except Illegal Instr :=
  let a := fieldAt w 20
  let b := fieldAt w 16
  let c := fieldAt w 12
  let d := fieldAt w 8
  let e := fieldAt w 4
  let f := fieldAt w 0
  match opcodeOf w with
  | 0x01 => if b = 0 then .ok (.li a (immOf w)) else .error .reservedField
  | 0x02 => plain w 12 (.ldp a b c)
  | 0x03 => plain w 16 (.stp a b)
  | 0x04 => plain w 12 (.ldl a b c)
  | 0x05 => plain w 16 (.stl a b)
  | 0x06 => plain w 16 (.pmov a b)
  | 0x07 => plain w 16 (.plen a b)
  | 0x08 => plain w 16 (.pdeg a b)
  | 0x09 => plain w 16 (.ptrim a b)
  | 0x10 => plain w 12 (.gfadd a b c)
  | 0x11 => plain w 12 (.gfmul a b c)
  | 0x12 => plain w 16 (.gfinv a b)
  | 0x13 => plain w 12 (.gfpow a b c)
  | 0x14 => plain w 16 (.gflog a b)
  | 0x15 => plain w 16 (.gfexp a b)
  | 0x20 => plain w 12 (.padd a b c)
  | 0x21 => plain w 12 (.pmul a b c)
  | 0x22 => plain w 12 (.pscale a b c)
  | 0x23 => distinctDest w 8 (.pdiv a b c d)
  | 0x24 => plain w 12 (.peval a b c)
  | 0x25 => plain w 16 (.pderiv a b)
  | 0x30 => plain w 16 (.synd a b)
  | 0x31 => plain w 16 (.eraloc a b)
  | 0x32 => plain w 12 (.omega a b c)
  | 0x38 => distinctDest w 4 (.xgcd a b c d e)
  | 0x39 => distinctDest w 0 (.sugi a b c d e f)
  | 0x3A => withValidate w (.eloc a b c)
  | 0x3B => withValidate w (.bmloc a b c)
  | 0x40 => plain w 16 (.froots a b)
  | 0x41 => plain w 16 (.getpos a b)
  | 0x42 => plain w 8 (.forney a b c d)
  | 0x43 => plain w 12 (.filler a b c)
  | 0x44 => plain w 8 (.apply a b c d)
  | 0x50 => plain w 12 (.rsdec a b c)
  | _ => .error .opcode

/-- The word of an opcode and six fields (30_encoding.md rule R80). -/
def pack (op : Nat) (a b c d e f : Fin 16) : Word :=
  BitVec.ofNat 32 (op * 2 ^ 24 + a.val * 2 ^ 20 + b.val * 2 ^ 16 + c.val * 2 ^ 12 + d.val * 2 ^ 8
    + e.val * 2 ^ 4 + f.val)

/-- The word of Format I (30_encoding.md rule R81). -/
def packImm (op : Nat) (a : Fin 16) (imm : Scalar) : Word :=
  BitVec.ofNat 32 (op * 2 ^ 24 + a.val * 2 ^ 20 + imm.toNat)

/-- The validate bit as field `D` (30_encoding.md rule R80). -/
def validateField (v : Bool) : Fin 16 := if v then 1 else 0

/-- The word of a command (30_encoding.md rules R81, R82). -/
def encode : Instr → Word
  | .li a imm => packImm 0x01 a imm
  | .ldp a b c => pack 0x02 a b c 0 0 0
  | .stp a b => pack 0x03 a b 0 0 0 0
  | .ldl a b c => pack 0x04 a b c 0 0 0
  | .stl a b => pack 0x05 a b 0 0 0 0
  | .pmov a b => pack 0x06 a b 0 0 0 0
  | .plen a b => pack 0x07 a b 0 0 0 0
  | .pdeg a b => pack 0x08 a b 0 0 0 0
  | .ptrim a b => pack 0x09 a b 0 0 0 0
  | .gfadd a b c => pack 0x10 a b c 0 0 0
  | .gfmul a b c => pack 0x11 a b c 0 0 0
  | .gfinv a b => pack 0x12 a b 0 0 0 0
  | .gfpow a b c => pack 0x13 a b c 0 0 0
  | .gflog a b => pack 0x14 a b 0 0 0 0
  | .gfexp a b => pack 0x15 a b 0 0 0 0
  | .padd a b c => pack 0x20 a b c 0 0 0
  | .pmul a b c => pack 0x21 a b c 0 0 0
  | .pscale a b c => pack 0x22 a b c 0 0 0
  | .pdiv a b c d => pack 0x23 a b c d 0 0
  | .peval a b c => pack 0x24 a b c 0 0 0
  | .pderiv a b => pack 0x25 a b 0 0 0 0
  | .synd a b => pack 0x30 a b 0 0 0 0
  | .eraloc a b => pack 0x31 a b 0 0 0 0
  | .omega a b c => pack 0x32 a b c 0 0 0
  | .xgcd a b c d e => pack 0x38 a b c d e 0
  | .sugi a b c d e f => pack 0x39 a b c d e f
  | .eloc a b c v => pack 0x3A a b c (validateField v) 0 0
  | .bmloc a b c v => pack 0x3B a b c (validateField v) 0 0
  | .froots a b => pack 0x40 a b 0 0 0 0
  | .getpos a b => pack 0x41 a b 0 0 0 0
  | .forney a b c d => pack 0x42 a b c d 0 0
  | .filler a b c => pack 0x43 a b c 0 0 0
  | .apply a b c d => pack 0x44 a b c d 0 0
  | .rsdec a b c => pack 0x50 a b c 0 0 0

/-- The command an opcode-table word decodes to (bit 0 is the word's least significant bit; a command is one
32-bit word, so every bit above `nbits` is 0). -/
def decodeTableWord (nbits w : Nat) : Option Instr :=
  (decode (BitVec.ofNat 32 (w % 2 ^ nbits))).toOption

/-- The command a pseudo-instruction assembles to (30_encoding.md rule R90). -/
def Pseudo.expand : Pseudo → Instr
  | .psub d a b => .padd d a b
  | .gfsub d a b => .gfadd d a b
  | .pzero d => .padd d d d
  | .eloc d x e => .eloc d x e false
  | .bmloc d x e => .bmloc d x e false

/-- The immediate of LI as the assembler reads it: an integer in -32768..65535, a negative `k` assembling as
`k + 65536` (30_encoding.md rules R83, R89). -/
def assembleImm (k : Int) : Option Scalar :=
  if -32768 ≤ k ∧ k ≤ 65535 then some (BitVec.ofInt 16 k) else none

end Sys2Proof
end

