-- ==== Sys2Proof/Config.lean ====
section
/-! DEFINITION. The parameters of an RSCORE instance (00_scope.md rule R7) and the values the spec
leaves free (93_implementation_defined.md U3, U4). A free value is a constant without a body. -/

namespace Sys2Proof

/-- The open parameter of an instance. `PRIM_POLY` is a 9-bit integer with bit 8 set
(00_scope.md rule R7), so its low byte determines it. -/
structure Config where
  primLow : Byte
  deriving DecidableEq, Repr

/-- `PRIM_POLY`, 9 bits, bit 8 set (00_scope.md rule R7). -/
def Config.primPoly (c : Config) : BitVec 9 := 1#1 ++ c.primLow

/-- The default `PRIM_POLY` = 0x11D (00_scope.md rule R7, 92_eei_decisions.md D2). -/
def Config.standard : Config := ⟨0x1D⟩

/-- `BUF_SIZE` (00_scope.md rule R7). -/
def Config.bufSize : Nat := 1024

/-- `PLEN_MAX`, the largest lane count of a polynomial register (00_scope.md rule R7). -/
def Config.plenMax : Nat := 256

/-- `N_MAX`, the largest block length (00_scope.md rule R7). -/
def Config.nMax : Nat := 255

/-- FREE VALUE: what a byte of `BUF` that nothing has written since reset reads as, by the number of
the reset and the address (10_state.md rule R42, 93_implementation_defined.md U4; log 1). -/
opaque Config.unwrittenByte : Nat → Nat → Byte

/-- FREE VALUE: the contents of `EXP` after a build that found a non-primitive polynomial, by the number
of the reset and the index (93_implementation_defined.md U3; log 2). -/
opaque Config.unbuiltExp : Nat → Nat → Byte

/-- FREE VALUE: the contents of `LOG` after such a build (93_implementation_defined.md U3; log 2). -/
opaque Config.unbuiltLog : Nat → Nat → Byte

end Sys2Proof
end

