-- ==== Sys2Proof/Machine/Tables.lean ====
section
/-! DEFINITION. The field tables `EXP` and `LOG` (10_state.md rule R30) and their one-time build (rule R33). -/

namespace Sys2Proof.Machine

/-- The two tables of 10_state.md rule R30. `exp` holds `EXP[0..254]`. `logs` holds `LOG[1..255]`, entry `a - 1`
being `LOG[a]`: `LOG[0]` is never read and is left out (93_implementation_defined.md U2; log 2). -/
structure Tables where
  exp  : Vector Byte 255
  logs : Vector Byte 255
  deriving DecidableEq, Repr

/-- Multiplication by `ALPHA` = 2 modulo `PRIM_POLY` (10_state.md rule R33). -/
def xtime (c : Config) (v : Byte) : Byte :=
  let t : BitVec 9 := v.setWidth 9 <<< 1
  (if t.getLsbD 8 then t ^^^ c.primPoly else t).setWidth 8

/-- The successive values of `x` in `n` iterations of the build's loop, from the value `x` (10_state.md rule
R33). -/
def powers (c : Config) : Nat → Byte → List Byte
  | 0, _ => []
  | n + 1, x => x :: powers c n (xtime c x)

theorem length_powers (c : Config) (n : Nat) (x : Byte) : (powers c n x).length = n := by
  induction n generalizing x with
  | zero => rfl
  | succ n ih => simp [powers, ih]

/-- The test of the build: the powers x_1 .. x_254 are not 1 and x_255 is (10_state.md rule R33, 00_scope.md rule
R8). -/
def primitive (c : Config) : Bool :=
  (powers c 254 (xtime c 1)).all (fun x => x != 1) && (xtime c)^[255] 1 == 1

/-- The index `i` with `EXP[i]` = `a`: what the build's write `LOG[x] = i` leaves at `a` (10_state.md rule R33). -/
def logOf (c : Config) (a : Byte) : Nat := (powers c 255 1).idxOf a

/-- The tables the build writes (10_state.md rule R33). -/
def builtTables (c : Config) : Tables where
  exp := ⟨(powers c 255 1).toArray, by simp [length_powers]⟩
  logs := ⟨((List.range 255).map fun j => BitVec.ofNat 8 (logOf c (BitVec.ofNat 8 (j + 1)))).toArray, by simp⟩

/-- The table build of 10_state.md rule R33: the tables, or `none` for NONPRIMITIVE. -/
def buildTables (c : Config) : Option Tables := if primitive c then some (builtTables c) else none

/-- The tables after a build that found a non-primitive polynomial, at the `draw`-th reset: free values
(93_implementation_defined.md U3; log 2). -/
def unbuiltTables (draw : Nat) : Tables where
  exp := Vector.ofFn fun i => Config.unbuiltExp draw i.val
  logs := Vector.ofFn fun i => Config.unbuiltLog draw i.val

end Sys2Proof.Machine
end

