-- ==== Sys2Proof/Machine/State.lean ====
section
/-! DEFINITION. The architectural state of one RSCORE instance (10_state.md rule R20), the ways a step can stop,
and the state after reset (rule R42, 70_reset_and_hazards.md rules R260 to R262). -/

namespace Sys2Proof.Machine

/-- The cause codes: every value `RESULT` can hold (60_exceptions.md rule R233). -/
inductive Cause where
  | ok
  | uncCapacity
  | uncFactor
  | uncLambda0
  | uncEmpty
  | uncPosrange
  | uncRecheck
  | cfgNonprim
  | cfgDivzero
  | cfgForneyDen
  | strictCorrected
  | cmdIllegal
  | cmdOperand
  | cmdOverflow
  | cmdDomain
  deriving DecidableEq, Repr

/-- `STATUS` (10_state.md rule R28). Bits 31:5 are reserved and read 0. -/
structure Status where
  busy   : Bool
  done   : Bool
  tblRdy : Bool
  fatal  : Bool
  ovr    : Bool
  deriving DecidableEq, Repr

/-- `CTRL.ALG`: the locator algorithm RSDEC uses (10_state.md rule R29). -/
inductive Algorithm where
  | euclid
  | berlekampMassey
  deriving DecidableEq, Repr

/-- `CTRL` (10_state.md rule R29). Bits 31:3 are reserved and read 0. -/
structure Ctrl where
  alg     : Algorithm
  recheck : Bool
  noerror : Bool
  deriving DecidableEq, Repr

/-- `FLAGS` (10_state.md rule R25): `sz` is bit 0, `rm` is bit 1. -/
structure Flags where
  sz : Bool
  rm : Bool
  deriving DecidableEq, Repr

/-- `IEN` (10_state.md rule R37): `ieDone` is bit 0, `ieFatal` is bit 1. -/
structure Ien where
  ieDone  : Bool
  ieFatal : Bool
  deriving DecidableEq, Repr

/-- The bytes of `BUF` that have been written since reset, in one canonical form: addresses strictly rising. An
unlisted address holds no written value (10_state.md rules R41, R42; log 1). -/
abbrev Memory := List Host.Cell

/-- A host operation (20_memory.md rule R64). Offsets are byte offsets into the window of 10_state.md rule R26. -/
inductive HostOp where
  | read32  (off : Nat)
  | write32 (off : Nat) (v : Word)
  | read8   (off : Nat)
  | write8  (off : Nat) (v : Byte)
  deriving DecidableEq, Repr

/-- Who moves next in the interleaving of 20_memory.md rule R70: the core, the host with one operation, or the
reset input (log 3). -/
inductive Turn where
  | core
  | host (op : HostOp)
  | reset
  deriving DecidableEq, Repr

/-- The value a host read returned (20_memory.md rule R64). -/
inductive Reply where
  | word (v : Word)
  | byte (v : Byte)
  deriving DecidableEq, Repr

/-- The state of 10_state.md rule R20, the configuration the instance was built with, and the model's own
`draw`, `agenda` and `reply` (logs 1, 3, 4). -/
structure State where
  cfg    : Config
  r      : Vector Scalar 16
  p      : Vector Poly 16
  status : Status
  ctrl   : Ctrl
  nsym   : Byte
  result : Cause
  einfo  : Word
  ncorr  : Byte
  flags  : Flags
  ien    : Ien
  pend   : Word
  buf    : Memory
  tables : Tables
  draw   : Nat
  agenda : List Turn
  reply  : Option Reply
  deriving DecidableEq, Repr

/-- Ways the machine could stop with a fault. There is none: the core step is total (60_exceptions.md rule
R231) and a command that cannot complete ends in a next state with a cause code (rule R236). Raised by nobody. -/
inductive Fault
  deriving DecidableEq, Repr

/-- Ways the model declines to give a step a meaning. -/
inductive Refusal where
  /-- Raised only by `exec` for an instruction without a meaning. Safe: the model stops. -/
  | notModelled (mnemonic : String)
  /-- Raised by the step for a host operation of a form the spec does not give: a misaligned word access, a byte
  access outside the `BUF` image, an offset outside the window (20_memory.md rule R65, 60_exceptions.md rule
  R242). Safe: the model stops. -/
  | hostAccessForm (op : HostOp)
  deriving DecidableEq, Repr

/-- The state the `draw`-th reset of an instance leaves (10_state.md rule R42): the tables are built; when the
build finds a non-primitive polynomial the core is FATAL with CFG_NONPRIM (70_reset_and_hazards.md rule R262). -/
def State.resetOf (c : Config) (draw : Nat) : State where
  cfg := c
  r := Vector.replicate 16 0
  p := Vector.replicate 16 []
  status :=
    { busy := false, done := false, tblRdy := (buildTables c).isSome, fatal := (buildTables c).isNone,
      ovr := false }
  ctrl := { alg := .euclid, recheck := true, noerror := false }
  nsym := 0
  result := if (buildTables c).isSome then .ok else .cfgNonprim
  einfo := 0
  ncorr := 0
  flags := { sz := false, rm := false }
  ien := { ieDone := false, ieFatal := false }
  pend := 0
  buf := []
  tables := (buildTables c).getD (unbuiltTables draw)
  draw := draw
  agenda := []
  reply := none

/-- The machine right after reset, with the default `PRIM_POLY` = 0x11D (00_scope.md rule R7; log 4), no input to
come and nothing read. -/
def State.reset : State := State.resetOf Config.standard 0

end Sys2Proof.Machine
end

