-- ==== Sys2Proof/Machine/Ops.lean ====
section
/-! DEFINITION. The shared operations: cause codes, registers, buffer memory, and the two ends of a command,
success and failure (60_exceptions.md rules R231, R236). -/

namespace Sys2Proof.Machine

/-- What a meaning answers. -/
abbrev Answer := Host.Outcome State Fault Refusal

/-- The 8-bit code of a cause (60_exceptions.md rule R233). -/
def Cause.code : Cause → Byte
  | .ok => 0x00
  | .uncCapacity => 0x10
  | .uncFactor => 0x11
  | .uncLambda0 => 0x12
  | .uncEmpty => 0x13
  | .uncPosrange => 0x14
  | .uncRecheck => 0x15
  | .cfgNonprim => 0x20
  | .cfgDivzero => 0x21
  | .cfgForneyDen => 0x22
  | .strictCorrected => 0x30
  | .cmdIllegal => 0x40
  | .cmdOperand => 0x41
  | .cmdOverflow => 0x42
  | .cmdDomain => 0x43

/-- The kind of a cause, bits 7:4 of its code (60_exceptions.md rule R232). -/
def Cause.kind (c : Cause) : Nat := c.code.toNat / 16

/-- `R[i]` (00_scope.md rule R12, 10_state.md rule R21). -/
def State.getR (s : State) (i : RIx) : Scalar := s.r[i]

/-- `R[i] <- v` (00_scope.md rule R12). -/
def State.setR (s : State) (i : RIx) (v : Scalar) : State := { s with r := s.r.set i v }

/-- `P[i]` (00_scope.md rule R12, 10_state.md rule R23). -/
def State.getP (s : State) (i : PIx) : Poly := s.p[i]

/-- `P[i] <- v`, length and lanes together (00_scope.md rule R12). -/
def State.setP (s : State) (i : PIx) (v : Poly) : State := { s with p := s.p.set i v }

/-- `NSYM` as an integer (10_state.md rule R31). -/
def State.nsymN (s : State) : Nat := s.nsym.toNat

/-- `NCORR <- k` (10_state.md rule R35). -/
def State.setNcorr (s : State) (k : Nat) : State := { s with ncorr := BitVec.ofNat 8 k }

/-- The byte written at an address since reset, if any. -/
def Memory.lookup : Memory → Nat → Option Byte
  | [], _ => none
  | (b, v) :: m, a => if a = b then some v else Memory.lookup m a

/-- Write one byte, keeping the addresses strictly rising. -/
def Memory.insert : Memory → Nat → Byte → Memory
  | [], a, v => [(a, v)]
  | (b, w) :: m, a, v =>
    if a < b then (a, v) :: (b, w) :: m
    else if a = b then (a, v) :: m
    else (b, w) :: Memory.insert m a v

/-- Write a sequence of bytes at rising addresses from `a`. -/
def Memory.insertAll : Memory → Nat → List Byte → Memory
  | m, _, [] => m
  | m, a, v :: vs => Memory.insertAll (Memory.insert m a v) (a + 1) vs

/-- The addresses rise strictly from at least `lo`, and stay inside `BUF` (20_memory.md rule R60). -/
def Memory.wfFrom : Nat → Memory → Bool
  | _, [] => true
  | lo, (a, _) :: m => lo ≤ a && a < Config.bufSize && Memory.wfFrom (a + 1) m

/-- The canonical form of a memory. -/
def Memory.wf (m : Memory) : Bool := Memory.wfFrom 0 m

/-- `BUF[a]`: the byte written there since reset, else the free value of that address, which stays the same until
the byte is written (10_state.md rule R42, 93_implementation_defined.md U4; log 1). -/
def State.bufByte (s : State) (a : Nat) : Byte := (Memory.lookup s.buf a).getD (Config.unwrittenByte s.draw a)

/-- `MemRead(addr, n)` (00_scope.md rule R12). -/
def State.memRead (s : State) (addr n : Nat) : List Byte := (List.range n).map fun j => s.bufByte (addr + j)

/-- `MemWrite(addr, n, vs)` with n the length of `vs` (00_scope.md rule R12). -/
def State.memWrite (s : State) (addr : Nat) (vs : List Byte) : State :=
  { s with buf := Memory.insertAll s.buf addr vs }

/-- The end of a command that succeeded, after its writes: `RESULT <- 0x00`, `EINFO` unchanged, BUSY 0, DONE 1
(60_exceptions.md rule R231). -/
def State.complete (s : State) : State :=
  { s with result := .ok, status := { s.status with busy := false, done := true } }

/-- The end of a command that failed with cause `c`: `RESULT <- c`, `EINFO <- w` with `w` the pending word, FATAL
when `c` is of the configuration kind, BUSY 0, DONE 1, and nothing else (60_exceptions.md rules R231, R236, R238).
There is no saved program counter, no vector and no return instruction (rules R236, R237). -/
def State.raise (s : State) (c : Cause) : State :=
  { s with
    result := c
    einfo := s.pend
    status := { s.status with busy := false, done := true, fatal := s.status.fatal || c.kind == 2 } }

/-- End a command: with the state its writes give, or with the cause it fails with (60_exceptions.md rule
R231). -/
def State.perform (s : State) (body : Except Cause State) : Answer :=
  match body with
  | .ok t => .next t.complete
  | .error c => .next (s.raise c)

/-- `if not ok then raise c` (00_scope.md rule R12). -/
def require (ok : Bool) (c : Cause) : Except Cause Unit := if ok then .ok () else .error c

end Sys2Proof.Machine
end

