-- ==== Sys2Proof/Machine/Operands.lean ====
section
/-! DEFINITION. Operand forms: the three readings of a scalar register (10_state.md rule R21), the functions on
polynomial values every rule reads its operands through (00_scope.md rule R11), and the checks on list operands. -/

namespace Sys2Proof.Machine

/-- `fe(i)`: `R[i]` as a field element, else CMD_OPERAND (00_scope.md rule R12). -/
def State.fe (s : State) (i : RIx) : Except Cause Byte :=
  if (s.getR i).toNat > 255 then .error .cmdOperand else .ok ((s.getR i).setWidth 8)

/-- `R[i]` as an unsigned integer 0..65535: an address, a length or an antilog index. -/
def State.uint (s : State) (i : RIx) : Nat := (s.getR i).toNat

/-- `sext_16(R[i])`: the exponent of GFPOW, the bound of SUGI (00_scope.md rule R9). -/
def State.sint (s : State) (i : RIx) : Int := (s.getR i).toInt

/-- A field element as a 16-bit result, `zext_16` (00_scope.md rule R9). -/
def zext16 (v : Byte) : Scalar := v.setWidth 16

/-- `coef(p, i)` (00_scope.md rule R11). -/
def coef (p : Poly) (i : Nat) : Byte := p.getD i 0

/-- `trim(p)`: the lanes up to the highest one that is not 0 (00_scope.md rule R11). -/
def trim : Poly → Poly
  | [] => []
  | c :: cs =>
    match trim cs with
    | [] => if c = 0 then [] else [c]
    | d :: ds => c :: d :: ds

/-- `deg(p)`: the index of the highest lane that is not 0, and -1 when there is none (00_scope.md rule R11). -/
def deg (p : Poly) : Int := (trim p).length - 1

/-- `x^k`: lane `k` is 1, every lane below it 0 (00_scope.md rule R11). -/
def xPow (k : Nat) : Poly := List.replicate k 0 ++ [1]

/-- The first `n` coefficients of `p`, missing lanes read as 0 (44_locator.md rule R170). -/
def firstCoefs (p : Poly) (n : Nat) : Poly := (List.range n).map (coef p)

/-- No entry of a list operand reaches `bound`, and it has at most 255 entries (92_eei_decisions.md D25). -/
def listBelow (e : Poly) (bound : Nat) : Bool := e.length ≤ 255 && e.all fun x => x.toNat < bound

/-- A list of positions 0..254 of at most 255 entries, else CMD_OPERAND (43_syndrome.md rule R164, 44_locator.md
rules R176, R179, 46_forney.md rule R202). -/
def positionList (e : Poly) : Except Cause Unit := require (listBelow e 255) .cmdOperand

/-- The operand tests shared by FILLER and RSDEC: block length 1..255, `NSYM` at most that length, positions inside
the block and distinct, else CMD_OPERAND (46_forney.md rule R204, 47_orchestrator.md rule R212). -/
def blockOperands (nsym : Nat) (r e : Poly) : Except Cause Unit := do
  require (1 ≤ r.length && r.length ≤ Config.nMax && nsym ≤ r.length) .cmdOperand
  require (listBelow e r.length) .cmdOperand
  require (decide e.Nodup) .cmdOperand

/-- A load or store of `n` bytes at `addr` stays inside `BUF`, integers without wrap, else CMD_OPERAND
(20_memory.md rule R66). -/
def bufRange (addr n : Nat) : Except Cause Unit := require (addr + n ≤ Config.bufSize) .cmdOperand

end Sys2Proof.Machine
end

