-- ==== Sys2Proof/Machine/DataMovement.lean ====
section
/-! DEFINITION. The data movement commands (40_data_movement.md). -/

namespace Sys2Proof.Machine

/-- LI (rule R101): the immediate as it stands. -/
def execLi (d : RIx) (imm : Scalar) (s : State) : Answer := s.perform (.ok (s.setR d imm))

/-- The bytes LDP and LDL read, after their range tests (rules R102, R104). -/
def State.loadBytes (s : State) (a b : RIx) : Except Cause (List Byte) := do
  require (s.uint b ≤ Config.plenMax) .cmdOperand
  bufRange (s.uint a) (s.uint b)
  pure (s.memRead (s.uint a) (s.uint b))

/-- Store a sequence at the address in a register, after the range test of STP and STL (rules R103, R105). -/
def State.storeBytes (s : State) (b : RIx) (vs : List Byte) : Except Cause State := do
  bufRange (s.uint b) vs.length
  pure (s.memWrite (s.uint b) vs)

/-- LDP (rule R102): memory holds the highest degree first, so the sequence is reversed into lanes. -/
def execLdp (d : PIx) (a b : RIx) (s : State) : Answer :=
  s.perform do
    let bytes ← s.loadBytes a b
    pure (s.setP d bytes.reverse)

/-- STP (rule R103): highest lane first. -/
def execStp (a : PIx) (b : RIx) (s : State) : Answer := s.perform (s.storeBytes b (s.getP a).reverse)

/-- LDL (rule R104): lane `j` is entry `j`. -/
def execLdl (d : PIx) (a b : RIx) (s : State) : Answer :=
  s.perform do
    let bytes ← s.loadBytes a b
    pure (s.setP d bytes)

/-- STL (rule R105): first entry first. -/
def execStl (a : PIx) (b : RIx) (s : State) : Answer := s.perform (s.storeBytes b (s.getP a))

/-- PMOV (rule R106): length and lanes unchanged. -/
def execPmov (d a : PIx) (s : State) : Answer := s.perform (.ok (s.setP d (s.getP a)))

/-- PLEN (rule R107): zero top lanes count. -/
def execPlen (d : RIx) (a : PIx) (s : State) : Answer :=
  s.perform (.ok (s.setR d (BitVec.ofNat 16 (s.getP a).length)))

/-- PDEG (rule R108): the degree modulo 65536, so the zero polynomial gives 0xFFFF. -/
def execPdeg (d : RIx) (a : PIx) (s : State) : Answer :=
  s.perform (.ok (s.setR d (BitVec.ofInt 16 (deg (s.getP a)))))

/-- PTRIM (rule R109). -/
def execPtrim (d a : PIx) (s : State) : Answer := s.perform (.ok (s.setP d (trim (s.getP a))))

end Sys2Proof.Machine
end

