-- ==== Sys2Proof/Machine/FieldUnit.lean ====
section
/-! DEFINITION. Unit U1: the field functions over the log and antilog tables, and the field commands
(41_field.md). -/

namespace Sys2Proof.Machine

/-- `EXP[n mod 255]` (10_state.md rule R30). -/
def Tables.expAt (t : Tables) (n : Nat) : Byte := t.exp[n % 255]'(Nat.mod_lt n (by decide))

/-- `LOG[a]` for `a` other than 0 (10_state.md rule R30); no rule reads `LOG[0]`, and nothing here calls this with
`a` = 0. -/
def Tables.logAt (t : Tables) (a : Byte) : Nat := (t.logs[a.toNat - 1]'(by have := a.isLt; omega)).toNat

/-- `alpha(i)` = `EXP[i mod 255]` for any integer (10_state.md rule R30). -/
def Tables.alpha (t : Tables) (i : Int) : Byte := t.expAt (i % 255).toNat

/-- `gf_add` (rule R121). -/
def gfAdd (a b : Byte) : Byte := a ^^^ b

/-- `gf_mul` (rule R122). -/
def gfMul (t : Tables) (a b : Byte) : Byte :=
  if a = 0 ∨ b = 0 then 0 else t.expAt (t.logAt a + t.logAt b)

/-- `gf_inv(a)` for `a` other than 0 (rule R123); every command tests for 0 first. -/
def gfInv (t : Tables) (a : Byte) : Byte := t.expAt (255 - t.logAt a)

/-- `gf_div(a, b)` for `b` other than 0 (rule R124). -/
def gfDiv (t : Tables) (a b : Byte) : Byte := gfMul t a (gfInv t b)

/-- `gf_pow(a, n)` outside the case `a` = 0, `n` < 0 (rule R125); GFPOW tests for that case first. -/
def gfPow (t : Tables) (a : Byte) (n : Int) : Byte :=
  if a ≠ 0 then t.alpha (t.logAt a * n) else if n > 0 then 0 else 1

/-- GFADD (rule R126). -/
def execGfadd (d a b : RIx) (s : State) : Answer :=
  s.perform do
    let x ← s.fe a
    let y ← s.fe b
    pure (s.setR d (zext16 (gfAdd x y)))

/-- GFMUL (rule R127). -/
def execGfmul (d a b : RIx) (s : State) : Answer :=
  s.perform do
    let x ← s.fe a
    let y ← s.fe b
    pure (s.setR d (zext16 (gfMul s.tables x y)))

/-- GFINV (rule R128). -/
def execGfinv (d a : RIx) (s : State) : Answer :=
  s.perform do
    let x ← s.fe a
    require (x ≠ 0) .cmdDomain
    pure (s.setR d (zext16 (gfInv s.tables x)))

/-- GFPOW (rule R129): the exponent is signed. -/
def execGfpow (d a b : RIx) (s : State) : Answer :=
  s.perform do
    let x ← s.fe a
    require (¬ (x = 0 ∧ s.sint b < 0)) .cmdDomain
    pure (s.setR d (zext16 (gfPow s.tables x (s.sint b))))

/-- GFLOG (rule R130). -/
def execGflog (d a : RIx) (s : State) : Answer :=
  s.perform do
    let x ← s.fe a
    require (x ≠ 0) .cmdDomain
    pure (s.setR d (BitVec.ofNat 16 (s.tables.logAt x)))

/-- GFEXP (rule R131): every index is legal. -/
def execGfexp (d a : RIx) (s : State) : Answer :=
  s.perform (.ok (s.setR d (zext16 (s.tables.alpha (s.uint a)))))

end Sys2Proof.Machine
end

