-- ==== Sys2Proof/Machine/Flags.lean ====
section
/-! DEFINITION. The two flags (10_state.md rule R25) and how they are written. -/

namespace Sys2Proof.Machine

/-- The value SZ takes for a syndrome: 1 when every syndrome is 0, also when there is none (43_syndrome.md rule
R162). -/
def allZero (syn : Poly) : Bool := deg syn == -1

/-- `FLAGS.SZ <- b`; RM unchanged. -/
def State.setSz (s : State) (b : Bool) : State := { s with flags := { s.flags with sz := b } }

/-- `FLAGS.RM <- b`; SZ unchanged. -/
def State.setRm (s : State) (b : Bool) : State := { s with flags := { s.flags with rm := b } }

end Sys2Proof.Machine
end

