-- ==== Sys2Proof/Machine/PolyUnit.lean ====
section
/-! DEFINITION. Unit U2: polynomial arithmetic and the polynomial commands (42_polynomial.md). -/

namespace Sys2Proof.Machine

/-- `poly_add` (rule R141). -/
def polyAdd (a b : Poly) : Poly :=
  trim ((List.range (max a.length b.length)).map fun i => gfAdd (coef a i) (coef b i))

/-- The XOR of `f 0`, …, `f (n - 1)`. -/
def xorSum (n : Nat) (f : Nat → Byte) : Byte := (List.range n).foldl (fun acc i => gfAdd acc (f i)) 0

/-- The coefficient of x^k of the product of `a` and `b` (rule R143, 43_syndrome.md rule R165). -/
def convolve (t : Tables) (a b : Poly) (k : Nat) : Byte :=
  xorSum (k + 1) fun i => gfMul t (coef a i) (coef b (k - i))

/-- `poly_mul` (rule R143): da + db + 1 lanes, or `[]` when an operand is the zero polynomial. -/
def polyMul (t : Tables) (a b : Poly) : Poly :=
  if deg a < 0 ∨ deg b < 0 then []
  else (List.range (deg a + deg b + 1).toNat).map (convolve t a b)

/-- `poly_scale` (rule R145). -/
def polyScale (t : Tables) (p : Poly) (k : Byte) : Poly := trim (p.map fun c => gfMul t c k)

/-- One row of the long division: `r_{k+j} = r_{k+j} + c · b_j` for every lane `j` of `b` (rule R147). -/
def addShifted (t : Tables) (r b : Poly) (k : Nat) (c : Byte) : Poly :=
  r.mapIdx fun i x => if i < k then x else gfAdd x (gfMul t c (coef b (i - k)))

/-- The loop of the long division with the indices `k - 1` down to 0 to go; `db` is the degree of `b` and `li` the
inverse of its leading coefficient. The quotient is built from its top lane down (rule R147). -/
def divLoop (t : Tables) (b : Poly) (db : Nat) (li : Byte) : Nat → Poly → Poly → Poly × Poly
  | 0, q, r => (q, r)
  | k + 1, q, r =>
    let c := gfMul t (coef r (k + db)) li
    divLoop t b db li k (c :: q) (addShifted t r b k c)

/-- `poly_divmod(a, b)` for `b` other than the zero polynomial (rule R147): quotient and remainder. PDIV and the
Euclidean loop test for 0 first. -/
def polyDivmod (t : Tables) (a b : Poly) : Poly × Poly :=
  let r := trim a
  if deg r < deg b then ([], r)
  else
    let db := (deg b).toNat
    let qr := divLoop t (trim b) db (gfInv t (coef b db)) ((deg r - deg b).toNat + 1) [] r
    (trim qr.1, trim qr.2)

/-- `poly_eval`, Horner's method from the top lane down (rule R149). -/
def polyEval (t : Tables) (p : Poly) (x : Byte) : Byte := p.foldr (fun c acc => gfAdd (gfMul t acc x) c) 0

/-- `poly_deriv` (rule R151): only odd-power terms survive, unchanged. -/
def polyDeriv (p : Poly) : Poly :=
  trim ((List.range (p.length - 1)).map fun i => if i % 2 = 0 then coef p (i + 1) else 0)

/-- PADD (rule R142). -/
def execPadd (d a b : PIx) (s : State) : Answer := s.perform (.ok (s.setP d (polyAdd (s.getP a) (s.getP b))))

/-- PMUL (rule R144): CMD_OVERFLOW when the product of two non-zero operands has degree above 255. -/
def execPmul (d a b : PIx) (s : State) : Answer :=
  s.perform do
    let x := s.getP a
    let y := s.getP b
    require (¬ (deg x ≥ 0 ∧ deg y ≥ 0 ∧ deg x + deg y > 255)) .cmdOverflow
    pure (s.setP d (polyMul s.tables x y))

/-- PSCALE (rule R146). -/
def execPscale (d a : PIx) (b : RIx) (s : State) : Answer :=
  s.perform do
    let k ← s.fe b
    pure (s.setP d (polyScale s.tables (s.getP a) k))

/-- PDIV (rule R148): a zero divisor is a configuration error. -/
def execPdiv (q r a b : PIx) (s : State) : Answer :=
  s.perform do
    require (deg (s.getP b) ≥ 0) .cfgDivzero
    let qr := polyDivmod s.tables (s.getP a) (s.getP b)
    pure ((s.setP q qr.1).setP r qr.2)

/-- PEVAL (rule R150). -/
def execPeval (d : RIx) (a : PIx) (b : RIx) (s : State) : Answer :=
  s.perform do
    let x ← s.fe b
    pure (s.setR d (zext16 (polyEval s.tables (s.getP a) x)))

/-- PDERIV (rule R152). -/
def execPderiv (d a : PIx) (s : State) : Answer := s.perform (.ok (s.setP d (polyDeriv (s.getP a))))

end Sys2Proof.Machine
end

