-- ==== Sys2Proof/Machine/SyndromeUnit.lean ====
section
/-! DEFINITION. Unit U3: syndrome, erasure locator and evaluator, and their commands (43_syndrome.md). -/

namespace Sys2Proof.Machine

/-- `syndrome(r, nsym)`: length exactly `nsym`, not trimmed (rule R161). -/
def syndrome (t : Tables) (r : Poly) (nsym : Nat) : Poly :=
  (List.range nsym).map fun i => polyEval t r (t.alpha i)

/-- `eras_loc(E)`: the product of the factors 1 + alpha(p) x (rule R163). -/
def erasLoc (t : Tables) (e : Poly) : Poly :=
  e.foldl (fun g p => polyMul t g [1, t.alpha p.toNat]) [1]

/-- `evaluator(S, L, nsym)`: the product modulo x^nsym (rule R165). -/
def evaluator (t : Tables) (syn loc : Poly) (nsym : Nat) : Poly :=
  trim ((List.range nsym).map (convolve t syn loc))

/-- SYND (rule R162). -/
def execSynd (d a : PIx) (s : State) : Answer :=
  s.perform (
    let syn := syndrome s.tables (s.getP a) s.nsymN
    .ok ((s.setP d syn).setSz (allZero syn)))

/-- ERALOC (rule R164): duplicates are accepted. -/
def execEraloc (d e : PIx) (s : State) : Answer :=
  s.perform do
    positionList (s.getP e)
    pure (s.setP d (erasLoc s.tables (s.getP e)))

/-- OMEGA (rule R166). -/
def execOmega (d x l : PIx) (s : State) : Answer :=
  s.perform (.ok (s.setP d (evaluator s.tables (s.getP x) (s.getP l) s.nsymN)))

end Sys2Proof.Machine
end

