-- ==== Sys2Proof/Machine/ForneyUnit.lean ====
section
/-! DEFINITION. Unit U7: the Forney evaluator, the erasure filler and the correction step, and their commands
(46_forney.md). -/

namespace Sys2Proof.Machine

/-- The magnitudes at a list of positions, `ld` being the derivative of the locator and `o` the evaluator; a zero
denominator is CFG_FORNEY_DEN (rule R201). -/
def magnitudes (t : Tables) (ld o : Poly) : Poly → Except Cause Poly
  | [] => .ok []
  | i :: pos => do
    let x := t.alpha i.toNat
    let xinv := t.alpha (-i.toNat)
    let num := gfMul t x (polyEval t o xinv)
    let den := polyEval t ld xinv
    require (den ≠ 0) .cfgForneyDen
    let rest ← magnitudes t ld o pos
    pure (gfMul t num (gfInv t den) :: rest)

/-- `forney(L, O, pos)` (rule R201). -/
def forney (t : Tables) (loc o pos : Poly) : Except Cause Poly := magnitudes t (polyDeriv loc) o pos

/-- `apply(r, pos, mags)`: same length, never trimmed; a position listed twice is XORed twice (rule R205). -/
def applyMags (r pos mags : Poly) : Poly :=
  (pos.zip mags).foldl (fun c pm => c.set pm.1.toNat (gfAdd (coef c pm.1.toNat) pm.2)) r

/-- `fill(r, pos, nsym)`: the filled block and the syndrome of the input block (rule R203). -/
def fill (t : Tables) (r pos : Poly) (nsym : Nat) : Except Cause (Poly × Poly) := do
  let syn := syndrome t r nsym
  let g := erasLoc t pos
  let mags ← forney t g (evaluator t syn g nsym) pos
  pure (applyMags r pos mags, syn)

/-- FORNEY (rule R202). -/
def execForney (d l o pp : PIx) (s : State) : Answer :=
  s.perform do
    positionList (s.getP pp)
    let mags ← forney s.tables (s.getP l) (s.getP o) (s.getP pp)
    pure (s.setP d mags)

/-- FILLER (rule R204). -/
def execFiller (d a pp : PIx) (s : State) : Answer :=
  s.perform do
    blockOperands s.nsymN (s.getP a) (s.getP pp)
    require ((s.getP pp).length ≤ s.nsymN) .uncCapacity
    let cs ← fill s.tables (s.getP a) (s.getP pp) s.nsymN
    pure (((s.setP d cs.1).setNcorr (s.getP pp).length).setSz (allZero cs.2))

/-- APPLY (rule R206). -/
def execApply (d a pp m : PIx) (s : State) : Answer :=
  s.perform do
    require ((s.getP pp).length = (s.getP m).length && (s.getP pp).all fun x => x.toNat < (s.getP a).length)
      .cmdOperand
    pure (s.setP d (applyMags (s.getP a) (s.getP pp) (s.getP m)))

end Sys2Proof.Machine
end

