-- ==== Sys2Proof/Machine/RootUnit.lean ====
section
/-! DEFINITION. Unit U6: root finding and positions, and their commands (45_roots.md). -/

namespace Sys2Proof.Machine

/-- The 256 field elements in ascending integer order (rule R191). -/
def fieldElements : List Byte := (List.range 256).map (BitVec.ofNat 8)

/-- Every field element, 0 included, at which `p` vanishes, in ascending order (rule R191). -/
def scanRoots (t : Tables) (p : Poly) : List Byte := fieldElements.filter fun x => polyEval t p x == 0

/-- `find_roots(p)`: the root list and whether its length is the degree; empty when it is not (rule R191). -/
def findRoots (t : Tables) (p : Poly) : Poly × Bool :=
  let roots := scanRoots t p
  if (roots.length : Int) = deg p then (roots, true) else ([], false)

/-- `positions_of(roots)` for roots other than 0 (rule R193). -/
def positionsOf (t : Tables) (roots : Poly) : Poly :=
  roots.map fun r => BitVec.ofNat 8 ((255 - t.logAt r) % 255)

/-- FROOTS (rule R192): a failed root-count gate is a result, not a failure. -/
def execFroots (d a : PIx) (s : State) : Answer :=
  s.perform (
    let found := findRoots s.tables (s.getP a)
    .ok ((s.setP d found.1).setRm found.2))

/-- GETPOS (rule R194): the root 0 has no position. -/
def execGetpos (d a : PIx) (s : State) : Answer :=
  s.perform do
    let found := findRoots s.tables (s.getP a)
    require (!found.1.contains 0) .cmdDomain
    pure ((s.setP d (positionsOf s.tables found.1)).setRm found.2)

end Sys2Proof.Machine
end

