-- ==== Sys2Proof/Machine/LocatorUnit.lean ====
section
/-! DEFINITION. Units U4 and U5: the Euclidean (Sugiyama) pipeline and the Berlekamp-Massey machine, and their
commands (44_locator.md). -/

namespace Sys2Proof.Machine

/-- The working values of the remainder sequence (rules R171, R173). They are not architectural state. -/
structure Euclid where
  ra : Poly
  rb : Poly
  ua : Poly
  ub : Poly
  va : Poly
  vb : Poly
  deriving DecidableEq, Repr

/-- The values before the first iteration (rules R171, R173). -/
def euclidStart (r1 r2 : Poly) : Euclid :=
  { ra := trim r1, rb := trim r2, ua := [1], ub := [], va := [], vb := [1] }

/-- One iteration (rules R171, R173). -/
def euclidStep (t : Tables) (e : Euclid) : Euclid :=
  let qr := polyDivmod t e.ra e.rb
  { ra := e.rb
    rb := qr.2
    ua := e.ub
    ub := polyAdd e.ua (polyMul t qr.1 e.ub)
    va := e.vb
    vb := polyAdd e.va (polyMul t qr.1 e.vb) }

/-- `while deg(rb) > up`, with at most `fuel` iterations. The degree of `rb` falls with every iteration
(70_reset_and_hazards.md rule R270), so as much fuel as `rb` has lanes never runs out with built tables (log 6). -/
def euclidLoop (t : Tables) (up : Int) : Nat → Euclid → Euclid
  | 0, e => e
  | fuel + 1, e => if deg e.rb > up then euclidLoop t up fuel (euclidStep t e) else e

/-- The loop run from the two operands. -/
def euclidRun (t : Tables) (r1 r2 : Poly) (up : Int) : Euclid :=
  euclidLoop t up (trim r2).length (euclidStart r1 r2)

/-- `xgcd(r1, r2)`: runs to a zero remainder and returns the previous triple (rule R171). -/
def xgcd (t : Tables) (r1 r2 : Poly) : Poly × Poly × Poly :=
  let e := euclidRun t r1 r2 (-1)
  (e.ua, e.va, e.ra)

/-- `sugiyama(r1, r2, up)` for `up` at least -1: stops as soon as `deg(rb) ≤ up` and returns the current triple
(rule R173). -/
def sugiyama (t : Tables) (r1 r2 : Poly) (up : Int) : Poly × Poly × Poly :=
  let e := euclidRun t r1 r2 up
  (e.ub, e.vb, e.rb)

/-- `euclid_locator(S, E, nsym)` (rule R175), for at most `nsym` erasures. -/
def euclidLocator (t : Tables) (syn e : Poly) (nsym : Nat) : Except Cause Poly := do
  let g := erasLoc t e
  let xi := evaluator t syn g nsym
  let up : Int := ((nsym + e.length) / 2 : Nat) - 1
  let v := (sugiyama t (xPow nsym) xi up).2.1
  require (coef v 0 ≠ 0) .uncLambda0
  pure (polyScale t (polyMul t v g) (gfInv t (coef v 0)))

/-- `validate(L, rho, nsym)`: the degree test, then the root-count gate (rule R177). -/
def validateLocator (t : Tables) (loc : Poly) (rho nsym : Nat) : Except Cause Unit := do
  require (2 * deg loc - rho ≤ nsym) .uncCapacity
  require (findRoots t loc).2 .uncFactor

/-- The validation of ELOC and BMLOC: applied only when V = 1 (rule R177). -/
def validateWhen (validate : Bool) (t : Tables) (loc : Poly) (rho nsym : Nat) : Except Cause Unit :=
  if validate then validateLocator t loc rho nsym else .ok ()

/-- The working values of the Berlekamp-Massey recurrence: `C`, `B`, `L` and `m` (rule R178). -/
structure Shift where
  c : Poly
  b : Poly
  l : Nat
  m : Nat
  deriving DecidableEq, Repr

/-- The discrepancy of step `k` (rule R178). -/
def discrepancy (t : Tables) (c syn : Poly) (k : Nat) : Byte :=
  xorSum (min (k : Int) (deg c) + 1).toNat fun i => gfMul t (coef c i) (coef syn (k - i))

/-- Step `k` of the recurrence with `rho` erasures (rule R178). -/
def shiftStep (t : Tables) (syn : Poly) (rho : Nat) (x : Shift) (k : Nat) : Shift :=
  let d := discrepancy t x.c syn k
  if d = 0 then { x with m := x.m + 1 }
  else
    let c := polyAdd x.c (polyScale t (polyMul t (xPow x.m) x.b) d)
    if 2 * x.l ≤ k + rho then
      { c := c, b := polyScale t x.c (gfInv t d), l := k + 1 + rho - x.l, m := 1 }
    else { x with c := c, m := x.m + 1 }

/-- `bm_locator(S, E, nsym)` (rule R178), for at most `nsym` erasures: steps `k` = rho .. nsym - 1. -/
def bmLocator (t : Tables) (syn e : Poly) (nsym : Nat) : Poly :=
  let g := erasLoc t e
  let rho := e.length
  trim ((List.range' rho (nsym - rho)).foldl (shiftStep t syn rho) { c := g, b := g, l := rho, m := 1 }).c

/-- Write the triple of XGCD or SUGI to its three destinations (rules R172, R174). -/
def State.setTriple (s : State) (u v r : PIx) (x : Poly × Poly × Poly) : State :=
  ((s.setP u x.1).setP v x.2.1).setP r x.2.2

/-- XGCD (rule R172). -/
def execXgcd (u v r a b : PIx) (s : State) : Answer :=
  s.perform (.ok (s.setTriple u v r (xgcd s.tables (s.getP a) (s.getP b))))

/-- SUGI (rule R174): a bound below -1 is CMD_OPERAND. -/
def execSugi (u v r a b : PIx) (c : RIx) (s : State) : Answer :=
  s.perform do
    require (s.sint c ≥ -1) .cmdOperand
    pure (s.setTriple u v r (sugiyama s.tables (s.getP a) (s.getP b) (s.sint c)))

/-- The tests of ELOC and BMLOC on their erasure list (rules R176, R179). -/
def erasureOperand (nsym : Nat) (e : Poly) : Except Cause Unit := do
  positionList e
  require (e.length ≤ nsym) .uncCapacity

/-- ELOC (rule R176). -/
def execEloc (d x e : PIx) (validate : Bool) (s : State) : Answer :=
  s.perform do
    erasureOperand s.nsymN (s.getP e)
    let loc ← euclidLocator s.tables (firstCoefs (s.getP x) s.nsymN) (s.getP e) s.nsymN
    validateWhen validate s.tables loc (s.getP e).length s.nsymN
    pure (s.setP d loc)

/-- BMLOC (rule R179). -/
def execBmloc (d x e : PIx) (validate : Bool) (s : State) : Answer :=
  s.perform do
    erasureOperand s.nsymN (s.getP e)
    let loc := bmLocator s.tables (firstCoefs (s.getP x) s.nsymN) (s.getP e) s.nsymN
    validateWhen validate s.tables loc (s.getP e).length s.nsymN
    pure (s.setP d loc)

end Sys2Proof.Machine
end

