-- ==== Sys2Proof/Machine/Orchestrator.lean ====
section
/-! DEFINITION. Unit U8: the decode sequence and its command RSDEC (47_orchestrator.md). -/

namespace Sys2Proof.Machine

/-- Step 2 of a decode: the locator by the selected algorithm (rule R211). -/
def locatorBy (t : Tables) (alg : Algorithm) (syn e : Poly) (nsym : Nat) : Except Cause Poly :=
  match alg with
  | .euclid => euclidLocator t syn e nsym
  | .berlekampMassey => .ok (bmLocator t syn e nsym)

/-- Steps 3 to 5 of a decode for the locator `loc` (rule R211): the corrected block and the number of located
positions. -/
def correctBlock (t : Tables) (r syn e loc : Poly) (nsym : Nat) (recheck : Bool) : Except Cause (Poly × Nat) := do
  validateLocator t loc e.length nsym
  require (deg loc ≠ 0) .uncEmpty
  let pos := positionsOf t (findRoots t loc).1
  require (pos.all fun x => x.toNat < r.length) .uncPosrange
  let mags ← forney t loc (evaluator t syn loc nsym) pos
  let c := applyMags r pos mags
  require (!recheck || allZero (syndrome t c nsym)) .uncRecheck
  pure (c, pos.length)

/-- `rs_decode(r, nsym, E, alg, recheck)` (rule R211). -/
def rsDecode (t : Tables) (r : Poly) (nsym : Nat) (e : Poly) (alg : Algorithm) (recheck : Bool) :
    Except Cause (Poly × Nat) := do
  require (e.length ≤ nsym) .uncCapacity
  let syn := syndrome t r nsym
  if allZero syn then pure (r, 0)
  else
    let loc ← locatorBy t alg syn e nsym
    correctBlock t r syn e loc nsym recheck

/-- RSDEC (rule R212). -/
def execRsdec (d a e : PIx) (s : State) : Answer :=
  s.perform do
    blockOperands s.nsymN (s.getP a) (s.getP e)
    let ck ← rsDecode s.tables (s.getP a) s.nsymN (s.getP e) s.ctrl.alg s.ctrl.recheck
    require (¬ (s.ctrl.noerror ∧ ck.2 > 0)) .strictCorrected
    pure (((s.setP d ck.1).setNcorr ck.2).setSz (ck.2 = 0))

end Sys2Proof.Machine
end

