-- ==== Sys2Proof/Machine/Dispatch.lean ====
section
/-! DEFINITION. The dispatch of a command to its meaning (60_exceptions.md rule R231). -/

namespace Sys2Proof.Machine

/-- `perform(w)` and the end of the core step, for the command `w` decodes to (60_exceptions.md rule R231). -/
def exec (i : Instr) (s : State) : Host.Outcome State Fault Refusal :=
  match i with
  | .li d imm => Sys2Proof.Machine.execLi d imm s
  | .ldp d a b => Sys2Proof.Machine.execLdp d a b s
  | .stp a b => Sys2Proof.Machine.execStp a b s
  | .ldl d a b => Sys2Proof.Machine.execLdl d a b s
  | .stl a b => Sys2Proof.Machine.execStl a b s
  | .pmov d a => Sys2Proof.Machine.execPmov d a s
  | .plen d a => Sys2Proof.Machine.execPlen d a s
  | .pdeg d a => Sys2Proof.Machine.execPdeg d a s
  | .ptrim d a => Sys2Proof.Machine.execPtrim d a s
  | .gfadd d a b => Sys2Proof.Machine.execGfadd d a b s
  | .gfmul d a b => Sys2Proof.Machine.execGfmul d a b s
  | .gfinv d a => Sys2Proof.Machine.execGfinv d a s
  | .gfpow d a b => Sys2Proof.Machine.execGfpow d a b s
  | .gflog d a => Sys2Proof.Machine.execGflog d a s
  | .gfexp d a => Sys2Proof.Machine.execGfexp d a s
  | .padd d a b => Sys2Proof.Machine.execPadd d a b s
  | .pmul d a b => Sys2Proof.Machine.execPmul d a b s
  | .pscale d a b => Sys2Proof.Machine.execPscale d a b s
  | .pdiv q r a b => Sys2Proof.Machine.execPdiv q r a b s
  | .peval d a b => Sys2Proof.Machine.execPeval d a b s
  | .pderiv d a => Sys2Proof.Machine.execPderiv d a s
  | .synd d a => Sys2Proof.Machine.execSynd d a s
  | .eraloc d e => Sys2Proof.Machine.execEraloc d e s
  | .omega d x l => Sys2Proof.Machine.execOmega d x l s
  | .xgcd u v r a b => Sys2Proof.Machine.execXgcd u v r a b s
  | .sugi u v r a b c => Sys2Proof.Machine.execSugi u v r a b c s
  | .eloc d x e validate => Sys2Proof.Machine.execEloc d x e validate s
  | .bmloc d x e validate => Sys2Proof.Machine.execBmloc d x e validate s
  | .froots d a => Sys2Proof.Machine.execFroots d a s
  | .getpos d a => Sys2Proof.Machine.execGetpos d a s
  | .forney d l o pp => Sys2Proof.Machine.execForney d l o pp s
  | .filler d a pp => Sys2Proof.Machine.execFiller d a pp s
  | .apply d a pp m => Sys2Proof.Machine.execApply d a pp m s
  | .rsdec d a e => Sys2Proof.Machine.execRsdec d a e s

end Sys2Proof.Machine
end

