-- ==== Sys2Proof/Machine/HostPort.lean ====
section
/-! DEFINITION. The host's side: the 2048-byte window (10_state.md rules R26 to R37, R44), the four host operations
(20_memory.md rules R63 to R65), the reset input (70_reset_and_hazards.md rule R260) and the interrupt output
(60_exceptions.md rule R240). -/

namespace Sys2Proof.Machine

/-- Bit `k` of a word, set when `b` holds. -/
def bitAt (k : Nat) (b : Bool) : Word := if b then BitVec.ofNat 32 (2 ^ k) else 0

/-- `STATUS` as the host reads it (10_state.md rule R28). -/
def Status.toWord (x : Status) : Word :=
  bitAt 0 x.busy ||| bitAt 1 x.done ||| bitAt 2 x.tblRdy ||| bitAt 3 x.fatal ||| bitAt 4 x.ovr

/-- `CTRL` as the host reads it (10_state.md rule R29). -/
def Ctrl.toWord (x : Ctrl) : Word :=
  bitAt 0 (x.alg == .berlekampMassey) ||| bitAt 1 x.recheck ||| bitAt 2 x.noerror

/-- `CTRL` as the host writes it; bits 31:3 are ignored (10_state.md rule R29). -/
def Ctrl.ofWord (v : Word) : Ctrl where
  alg := if v.getLsbD 0 then .berlekampMassey else .euclid
  recheck := v.getLsbD 1
  noerror := v.getLsbD 2

/-- `FLAGS` as the host reads it (10_state.md rule R25). -/
def Flags.toWord (x : Flags) : Word := bitAt 0 x.sz ||| bitAt 1 x.rm

/-- `IEN` as the host reads it (10_state.md rule R37). -/
def Ien.toWord (x : Ien) : Word := bitAt 0 x.ieDone ||| bitAt 1 x.ieFatal

/-- `IEN` as the host writes it; bits 31:2 are ignored (10_state.md rule R37). -/
def Ien.ofWord (v : Word) : Ien := { ieDone := v.getLsbD 0, ieFatal := v.getLsbD 1 }

/-- The scalar register of a window offset 0x040 + 4·i (10_state.md rule R26). -/
def registerAt (off : Nat) : RIx := ⟨(off - 0x40) / 4 % 16, Nat.mod_lt _ (by decide)⟩

/-- An aligned word access inside the window (20_memory.md rules R64, R65). -/
def wordForm (off : Nat) : Bool := off % 4 == 0 && off < 0x800

/-- A byte access inside the `BUF` image (20_memory.md rules R64, R65). -/
def byteForm (off : Nat) : Bool := 0x400 ≤ off && off < 0x800

/-- The aligned word of `BUF` at address `a`, `BUF[a]` in bits 7:0 (20_memory.md rule R63). -/
def State.bufWord (s : State) (a : Nat) : Word :=
  s.bufByte (a + 3) ++ s.bufByte (a + 2) ++ s.bufByte (a + 1) ++ s.bufByte a

/-- The four bytes of a word, the byte of bits 7:0 first (20_memory.md rule R63). -/
def wordBytes (v : Word) : List Byte :=
  [v.extractLsb' 0 8, v.extractLsb' 8 8, v.extractLsb' 16 8, v.extractLsb' 24 8]

/-- What HostRead32 returns at an offset of the right form: the registers of the window of 10_state.md rule R26,
`BUF` from 0x400, and 0 at a reserved offset (rule R44). -/
def State.read32 (s : State) (off : Nat) : Word :=
  if off = 0x000 then 0
  else if off = 0x004 then s.status.toWord
  else if off = 0x008 then s.ctrl.toWord
  else if off = 0x00C then s.nsym.setWidth 32
  else if off = 0x010 then s.result.code.setWidth 32
  else if off = 0x014 then s.einfo
  else if off = 0x018 then s.ncorr.setWidth 32
  else if off = 0x01C then s.flags.toWord
  else if off = 0x020 then s.cfg.primPoly.setWidth 32
  else if off = 0x024 then s.ien.toWord
  else if off < 0x040 then 0
  else if off < 0x080 then (s.getR (registerAt off)).setWidth 32
  else if off < 0x400 then 0
  else s.bufWord (off - 0x400)

/-- The host's write is dropped: `STATUS.OVR <- 1` and nothing else (10_state.md rule R27, 20_memory.md rule
R64). -/
def State.dropWrite (s : State) : State := { s with status := { s.status with ovr := true } }

/-- An accepted write of a command word: `PEND <- w`, BUSY 1, DONE 0 (10_state.md rule R27). -/
def State.acceptCmd (s : State) (w : Word) : State :=
  { s with pend := w, status := { s.status with busy := true, done := false } }

/-- A write to `STATUS`: 1 clears DONE (bit 1) and OVR (bit 4), 0 leaves them (10_state.md rule R28). -/
def State.clearStatus (s : State) (v : Word) : State :=
  { s with
    status := { s.status with done := s.status.done && !v.getLsbD 1, ovr := s.status.ovr && !v.getLsbD 4 } }

/-- What an accepted HostWrite32 does at an offset of the right form: the writable bits are replaced; a read-only
register (log 5) and a reserved offset (10_state.md rule R44) ignore it. -/
def State.write32 (s : State) (off : Nat) (v : Word) : State :=
  if off = 0x000 then s.acceptCmd v
  else if off = 0x004 then s.clearStatus v
  else if off = 0x008 then { s with ctrl := Ctrl.ofWord v }
  else if off = 0x00C then { s with nsym := v.setWidth 8 }
  else if off = 0x024 then { s with ien := Ien.ofWord v }
  else if off < 0x040 then s
  else if off < 0x080 then s.setR (registerAt off) (v.setWidth 16)
  else if off < 0x400 then s
  else s.memWrite (off - 0x400) (wordBytes v)

/-- One host operation (20_memory.md rule R64). A read is always performed; a write is dropped while BUSY = 1, and
a write to `CMD` also while FATAL = 1. A form the spec does not give is refused (rule R65, 60_exceptions.md rule
R242). -/
def State.hostOp (s : State) (op : HostOp) : Answer :=
  match op with
  | .read32 off =>
    if wordForm off then .next { s with reply := some (.word (s.read32 off)) } else .refused (.hostAccessForm op)
  | .read8 off =>
    if byteForm off then .next { s with reply := some (.byte (s.bufByte (off - 0x400))) }
    else .refused (.hostAccessForm op)
  | .write32 off v =>
    if wordForm off then
      (if s.status.busy || (s.status.fatal && off == 0) then .next s.dropWrite else .next (s.write32 off v))
    else .refused (.hostAccessForm op)
  | .write8 off v =>
    if byteForm off then
      (if s.status.busy then .next s.dropWrite else .next (s.memWrite (off - 0x400) [v]))
    else .refused (.hostAccessForm op)

/-- The reset input: every piece of state at its reset value, the tables built again, and `BUF` drawn afresh
(70_reset_and_hazards.md rule R260). The inputs still to come and the last reply are the model's and stay. -/
def State.resetInput (s : State) : State :=
  { State.resetOf s.cfg (s.draw + 1) with agenda := s.agenda, reply := s.reply }

/-- The interrupt output (60_exceptions.md rule R240). -/
def State.irq (s : State) : Bool := (s.status.done && s.ien.ieDone) || (s.status.fatal && s.ien.ieFatal)

end Sys2Proof.Machine
end

