-- ==== Sys2Proof/Machine/Step.lean ====
section
/-! DEFINITION. One step of the interleaving of 20_memory.md rule R70: the core step (60_exceptions.md rule R231),
a host operation, or the reset input. -/

namespace Sys2Proof.Machine

/-- The core step on the pending word: an illegal word ends with CMD_ILLEGAL, a legal one is performed
(60_exceptions.md rule R231, 30_encoding.md rule R85). -/
def coreStep (s : State) : Host.Outcome State Fault Refusal :=
  match decode s.pend with
  | .ok i => exec i s
  | .error _ => .next (s.raise .cmdIllegal)

/-- The core's turn: the core step when it is enabled, that is when BUSY = 1 (60_exceptions.md rule R231), and
otherwise no change (70_reset_and_hazards.md rule R260; log 3). -/
def coreTurn (s : State) : Host.Outcome State Fault Refusal :=
  if s.status.busy then coreStep s else .next s

/-- One step: the next turn of the agenda, or the core's when the agenda is empty (log 3). -/
def step (s : State) : Host.Outcome State Fault Refusal :=
  match s.agenda with
  | [] => coreTurn s
  | .core :: rest => coreTurn { s with agenda := rest }
  | .host op :: rest => ({ s with agenda := rest } : State).hostOp op
  | .reset :: rest => .next ({ s with agenda := rest } : State).resetInput

/-- `s` with a command word handed over as an accepted write to `CMD` does it (10_state.md rule R27), and the core
to move next: the very next step performs exactly that command (log 3). Every bit above `nbits` is 0. -/
def State.withFetchWord (s : State) (nbits w : Nat) : State :=
  { s.acceptCmd (BitVec.ofNat 32 (w % 2 ^ nbits)) with agenda := .core :: s.agenda }

end Sys2Proof.Machine
end

