-- ==== Sys2Proof/Safety.lean ====
section
/-! DEFINITION. The terms claims are stated in: what a run keeps, what a command leaves alone, and the field
multiplication the tables stand for. -/

namespace Sys2Proof.Machine

/-- The tables are the ones a build that answered OK left (10_state.md rule R33). -/
abbrev State.TablesBuilt (s : State) : Prop := primitive s.cfg = true ∧ s.tables = builtTables s.cfg

/-- `STATUS.TBL_RDY` says whether the build answered OK, and then the tables are the built ones (10_state.md rules
R28, R30). -/
abbrev State.TablesConsistent (s : State) : Prop :=
  s.status.tblRdy = primitive s.cfg ∧ (s.status.tblRdy = true → s.tables = builtTables s.cfg)

/-- BUSY implies not FATAL (60_exceptions.md rule R231) and TBL_RDY = 0 implies FATAL (10_state.md rule R28). -/
abbrev State.StatusConsistent (s : State) : Prop :=
  (s.status.busy = true → s.status.fatal = false) ∧ (s.status.tblRdy = false → s.status.fatal = true)

/-- Every polynomial register holds at most 256 lanes (10_state.md rule R23). -/
abbrev State.LanesBounded (s : State) : Prop := ∀ i : PIx, (s.getP i).length ≤ 256

/-- The written bytes of `BUF` are listed in the canonical form, inside 0..1023. -/
abbrev State.MemoryCanonical (s : State) : Prop := Memory.wf s.buf = true

/-- What every step keeps. -/
abbrev State.Invariant (s : State) : Prop :=
  s.TablesConsistent ∧ s.StatusConsistent ∧ s.LanesBounded ∧ s.MemoryCanonical

/-- What no command writes: the configuration, the tables, `CTRL`, `NSYM`, `IEN`, `PEND`, `STATUS.TBL_RDY`,
`STATUS.OVR`, and the model's own fields. -/
abbrev SameControl (s t : State) : Prop :=
  t.cfg = s.cfg ∧ t.tables = s.tables ∧ t.ctrl = s.ctrl ∧ t.nsym = s.nsym ∧ t.ien = s.ien ∧ t.pend = s.pend ∧
  t.status.tblRdy = s.status.tblRdy ∧ t.status.ovr = s.status.ovr ∧
  t.draw = s.draw ∧ t.agenda = s.agenda ∧ t.reply = s.reply

/-- No byte of `BUF` reads differently. -/
abbrev SameBuf (s t : State) : Prop := ∀ a : Nat, t.bufByte a = s.bufByte a

/-- The scalar registers are unchanged. -/
abbrev SameR (s t : State) : Prop := ∀ j : RIx, t.getR j = s.getR j

/-- The polynomial registers are unchanged. -/
abbrev SameP (s t : State) : Prop := ∀ j : PIx, t.getP j = s.getP j

/-- A polynomial value is trimmed: it is `[]` or its top lane is not 0 (42_polynomial.md rule R140). -/
abbrev Trimmed (p : Poly) : Prop := p = [] ∨ coef p (p.length - 1) ≠ 0

/-- The product of two residues modulo `PRIM_POLY`, bit i of an element being the coefficient of x^i (00_scope.md
rule R10): the XOR of x^i·a over the set bits i of b. It reads no table. -/
def residueMul (c : Config) (a b : Byte) : Byte :=
  xorSum 8 fun i => if b.getLsbD i then (xtime c)^[i] a else 0

/-- The core moves next: the agenda is empty, or its first turn is the core's. -/
abbrev State.CoreNext (s : State) : Prop := s.agenda = [] ∨ s.agenda.head? = some .core

/-- The state the core's turn works on: the turn, if there is one, is taken from the agenda. -/
def State.takeTurn (s : State) : State := { s with agenda := s.agenda.tail }

/-- `s` with the host operation `op` as the next turn. -/
def State.withHostOp (s : State) (op : HostOp) : State := { s with agenda := .host op :: s.agenda }

/-- A host operation of a form the spec does not give: a word access that is misaligned or outside the window, a byte
access outside the `BUF` image (20_memory.md rule R65). -/
def UngivenForm : HostOp → Prop
  | .read32 off | .write32 off _ => off % 4 ≠ 0 ∨ 0x800 ≤ off
  | .read8 off | .write8 off _ => off < 0x400 ∨ 0x800 ≤ off

/-- The block `r` and the block `c` have the same length and agree outside the positions listed. -/
abbrev AgreeOutside (r c : Poly) (pos : List Nat) : Prop :=
  r.length = c.length ∧ ∀ i, i ∉ pos → coef r i = coef c i

/-- A codeword of `nsym` check symbols: every syndrome is 0 (43_syndrome.md rule R160). -/
abbrev Codeword (t : Tables) (c : Poly) (nsym : Nat) : Prop := ∀ i, i < nsym → polyEval t c (t.alpha i) = 0

/-- The causes a command can end with, and under which options (60_exceptions.md rule R233, last column). -/
def mayRaise (ctrl : Ctrl) : Instr → Cause → Prop
  | .ldp _ _ _, c | .stp _ _, c | .ldl _ _ _, c | .stl _ _, c => c = .cmdOperand
  | .gfadd _ _ _, c | .gfmul _ _ _, c | .pscale _ _ _, c | .peval _ _ _, c => c = .cmdOperand
  | .gfinv _ _, c | .gfpow _ _ _, c | .gflog _ _, c => c = .cmdOperand ∨ c = .cmdDomain
  | .pmul _ _ _, c => c = .cmdOverflow
  | .pdiv _ _ _ _, c => c = .cfgDivzero
  | .eraloc _ _, c | .sugi _ _ _ _ _ _, c | .apply _ _ _ _, c => c = .cmdOperand
  | .eloc _ _ _ v, c =>
    c = .cmdOperand ∨ c = .uncCapacity ∨ c = .uncLambda0 ∨ (v = true ∧ c = .uncFactor)
  | .bmloc _ _ _ v, c => c = .cmdOperand ∨ c = .uncCapacity ∨ (v = true ∧ c = .uncFactor)
  | .getpos _ _, c => c = .cmdDomain
  | .forney _ _ _ _, c => c = .cmdOperand ∨ c = .cfgForneyDen
  | .filler _ _ _, c => c = .cmdOperand ∨ c = .uncCapacity ∨ c = .cfgForneyDen
  | .rsdec _ _ _, c =>
    c = .cmdOperand ∨ c = .uncCapacity ∨ (ctrl.alg = .euclid ∧ c = .uncLambda0) ∨ c = .uncFactor ∨
    c = .uncEmpty ∨ c = .uncPosrange ∨ c = .cfgForneyDen ∨ (ctrl.recheck = true ∧ c = .uncRecheck) ∨
    (ctrl.noerror = true ∧ c = .strictCorrected)
  | .li _ _, _ | .pmov _ _, _ | .plen _ _, _ | .pdeg _ _, _ | .ptrim _ _, _ | .gfexp _ _, _ | .padd _ _ _, _
  | .pderiv _ _, _ | .synd _ _, _ | .omega _ _ _, _ | .xgcd _ _ _ _ _, _ | .froots _ _, _ => False

/-- The locator of a list of positions: the product of (1 + alpha(p) x) (44_locator.md rule R180). -/
def locatorOf (t : Tables) (pos : List Nat) : Poly := erasLoc t (pos.map (BitVec.ofNat 8))

end Sys2Proof.Machine
end

