-- ==== Sys2Proof/Certificates/Slice0/Obligations.lean ====
section
/-! DEFINITION. The statements for the provers, each from the numbered rules of spec/ named in its docstring. -/

open Sys2Proof Sys2Proof.Machine

/-! Encoding -/

/-- 30_encoding.md rules R80 to R83, R85: the word of a command decodes to that command. -/
def Obligations.DecodeOfEncode : Prop :=
  ∀ i : Instr, i.wellFormed = true → decode (encode i) = .ok i

/-- 30_encoding.md rules R81, R85: a word that decodes is the one encoding of its command, so no reserved field, no
validate bit above 1 and no pair of equal destinations decodes. -/
def Obligations.EncodeOfDecode : Prop :=
  ∀ (w : Word) (i : Instr), decode w = .ok i → i.wellFormed = true ∧ encode i = w

/-- 30_encoding.md rule R91, the worked encodings and the illegal words. -/
def Obligations.WorkedEncodings : Prop :=
  decode 0x01100053 = .ok (.li 1 0x0053) ∧ decode 0x0190FFFF = .ok (.li 9 0xFFFF) ∧
  decode 0x11312000 = .ok (.gfmul 3 1 2) ∧ decode 0x02001000 = .ok (.ldp 0 0 1) ∧
  decode 0x03230000 = .ok (.stp 2 3) ∧ decode 0x23230400 = .ok (.pdiv 2 3 0 4) ∧
  decode 0x39123456 = .ok (.sugi 1 2 3 4 5 6) ∧ decode 0x3B321100 = .ok (.bmloc 3 2 1 true) ∧
  decode 0x42635400 = .ok (.forney 6 3 5 4) ∧ decode 0x50201000 = .ok (.rsdec 2 0 1) ∧
  decode 0x00000000 = .error .opcode ∧ decode 0x11312001 = .error .reservedField ∧
  decode 0x23220400 = .error .sameDestination ∧ decode 0x3A321200 = .error .validateBit ∧
  decode 0x01110053 = .error .reservedField

/-- 30_encoding.md rule R86: 222 of the 256 opcode values are unassigned and illegal, and only these; an illegal word
completes with `RESULT` = 0x40 and `EINFO` = the word, has no other effect (rule R85, 60_exceptions.md rule R236) and does
not halt the core. -/
def Obligations.IllegalWordsEndWithCmdIllegal : Prop :=
  (∀ w : Word, decode w = .error .opcode ↔ opcodeOf w ∉ [0x01, 0x02, 0x03, 0x04, 0x05, 0x06, 0x07, 0x08, 0x09, 0x10, 0x11, 0x12, 0x13, 0x14, 0x15,
      0x20, 0x21, 0x22, 0x23, 0x24, 0x25, 0x30, 0x31, 0x32, 0x38, 0x39, 0x3A, 0x3B, 0x40, 0x41, 0x42, 0x43, 0x44, 0x50]) ∧
  (∀ (s : State) (why : Illegal), s.CoreNext → s.status.busy = true → decode s.pend = .error why →
    ∃ t, step s = .next t ∧ t.result.code = 0x40 ∧
      t = { s.takeTurn with
        result := t.result
        einfo := s.pend
        status := { s.status with busy := false, done := true } })

/-! The core step -/

/-- 60_exceptions.md rule R231: on the core's turn with BUSY = 1 the step performs the command the pending word
decodes to, on the state as it is. -/
def Obligations.StepPerformsPendingCommand : Prop :=
  ∀ (s : State) (i : Instr), s.CoreNext → s.status.busy = true → decode s.pend = .ok i → step s = exec i s.takeTurn

/-- 60_exceptions.md rule R231: the core step is enabled exactly when BUSY = 1; it is total, and afterwards BUSY is 0
and DONE is 1. A turn of the core without a pending command changes nothing but the agenda (log 3). -/
def Obligations.CoreStepIsTotal : Prop :=
  ∀ s : State, s.CoreNext →
    (s.status.busy = true → ∃ t, step s = .next t ∧ t.status.busy = false ∧ t.status.done = true) ∧
    (s.status.busy = false → step s = .next s.takeTurn)

/-- 60_exceptions.md rule R236: on a failure exactly `RESULT`, `EINFO`, BUSY, DONE and, for kind 2, FATAL change; a
successful command has `RESULT` = 0x00 and leaves `EINFO`. -/
def Obligations.FailureChangesNothingElse : Prop :=
  ∀ (i : Instr) (s t : State), exec i s = .next t →
    (t.result ≠ .ok →
      t = { s with
        result := t.result
        einfo := s.pend
        status := { s.status with
          busy := false
          done := true
          fatal := s.status.fatal || t.result.code.toNat / 16 == 2 } }) ∧
    (t.result = .ok → t.result.code = 0x00 ∧ t.einfo = s.einfo)

/-- 60_exceptions.md rule R231, the success branch: `EINFO`, FATAL and everything no command writes are unchanged,
BUSY is 0 and DONE is 1. -/
def Obligations.SuccessEndsCommand : Prop :=
  ∀ (i : Instr) (s t : State), exec i s = .next t → t.result = .ok →
    t.einfo = s.einfo ∧ t.status.fatal = s.status.fatal ∧ t.status.busy = false ∧ t.status.done = true ∧
    SameControl s t

/-- 60_exceptions.md rule R233: the code of every cause, and which commands raise which. -/
def Obligations.CausesOfEachCommand : Prop :=
  ([Cause.ok, .uncCapacity, .uncFactor, .uncLambda0, .uncEmpty, .uncPosrange, .uncRecheck, .cfgNonprim, .cfgDivzero,
      .cfgForneyDen, .strictCorrected, .cmdIllegal, .cmdOperand, .cmdOverflow, .cmdDomain].map Cause.code =
    [0x00, 0x10, 0x11, 0x12, 0x13, 0x14, 0x15, 0x20, 0x21, 0x22, 0x30, 0x40, 0x41, 0x42, 0x43]) ∧
  ∀ (i : Instr) (s t : State), exec i s = .next t → t.result = .ok ∨ mayRaise s.ctrl i t.result

/-! Data movement -/

/-- 40_data_movement.md rule R101: the immediate as it stands; a word with field `B` other than 0 is illegal. -/
def Obligations.LiLoadsImmediate : Prop :=
  ∀ (s : State) (d b x y z u : Fin 16) (imm : Scalar),
    (b ≠ 0 → decode (pack 0x01 d b x y z u) = .error .reservedField) ∧
    decode (BitVec.ofNat 32 (0x01 * 2 ^ 24 + d.val * 2 ^ 20 + imm.toNat)) = .ok (.li d imm) ∧
    exec (.li d imm) s = .next (s.setR d imm).complete

/-- 40_data_movement.md rules R102, R104: the range tests, the order of the lanes and the exact length. -/
def Obligations.LoadsReadBuffer : Prop :=
  ∀ (s : State) (d : PIx) (a b : RIx),
    decode (pack 0x02 d a b 0 0 0) = .ok (.ldp d a b) ∧ decode (pack 0x04 d a b 0 0 0) = .ok (.ldl d a b) ∧
    ((s.getR b).toNat ≤ 256 → (s.getR a).toNat + (s.getR b).toNat ≤ 1024 →
      (∃ p : Poly, exec (.ldp d a b) s = .next (s.setP d p).complete ∧ p.length = (s.getR b).toNat ∧
        ∀ j, j < (s.getR b).toNat → coef p ((s.getR b).toNat - 1 - j) = s.bufByte ((s.getR a).toNat + j)) ∧
      (∃ p : Poly, exec (.ldl d a b) s = .next (s.setP d p).complete ∧ p.length = (s.getR b).toNat ∧
        ∀ j, j < (s.getR b).toNat → coef p j = s.bufByte ((s.getR a).toNat + j))) ∧
    ((s.getR b).toNat > 256 ∨ (s.getR a).toNat + (s.getR b).toNat > 1024 →
      exec (.ldp d a b) s = .next (s.raise .cmdOperand) ∧ exec (.ldl d a b) s = .next (s.raise .cmdOperand))

/-- 40_data_movement.md rules R103, R105, and the frame of the two stores: exactly the bytes at the address in `Rb`
are written, one for each lane. A store followed by the load of the same kind, address and length returns the same
value. -/
def Obligations.StoresWriteBuffer : Prop :=
  (∀ (s : State) (a : PIx) (b : RIx),
    decode (pack 0x03 a b 0 0 0 0) = .ok (.stp a b) ∧ decode (pack 0x05 a b 0 0 0 0) = .ok (.stl a b) ∧
    ((s.getR b).toNat + (s.getP a).length ≤ 1024 →
      (∃ t, exec (.stp a b) s = .next t ∧ t.result = .ok ∧
        (∀ j, j < (s.getP a).length →
          t.bufByte ((s.getR b).toNat + j) = coef (s.getP a) ((s.getP a).length - 1 - j)) ∧
        (∀ x, x < (s.getR b).toNat ∨ (s.getR b).toNat + (s.getP a).length ≤ x → t.bufByte x = s.bufByte x) ∧
        SameR s t ∧ SameP s t ∧ t.flags = s.flags ∧ t.ncorr = s.ncorr ∧ t.einfo = s.einfo ∧ SameControl s t ∧
        t.status.fatal = s.status.fatal) ∧
      (∃ t, exec (.stl a b) s = .next t ∧ t.result = .ok ∧
        (∀ j, j < (s.getP a).length → t.bufByte ((s.getR b).toNat + j) = coef (s.getP a) j) ∧
        (∀ x, x < (s.getR b).toNat ∨ (s.getR b).toNat + (s.getP a).length ≤ x → t.bufByte x = s.bufByte x) ∧
        SameR s t ∧ SameP s t ∧ t.flags = s.flags ∧ t.ncorr = s.ncorr ∧ t.einfo = s.einfo ∧ SameControl s t ∧
        t.status.fatal = s.status.fatal)) ∧
    ((s.getR b).toNat + (s.getP a).length > 1024 →
      exec (.stp a b) s = .next (s.raise .cmdOperand) ∧ exec (.stl a b) s = .next (s.raise .cmdOperand))) ∧
  ∀ (s : State) (a d : PIx) (b c : RIx),
    (s.getP a).length ≤ 256 → (s.getR b).toNat + (s.getP a).length ≤ 1024 → (s.getR c).toNat = (s.getP a).length →
    (∃ t u, exec (.stp a b) s = .next t ∧ exec (.ldp d b c) t = .next u ∧ u.result = .ok ∧ u.getP d = s.getP a) ∧
    (∃ t u, exec (.stl a b) s = .next t ∧ exec (.ldl d b c) t = .next u ∧ u.result = .ok ∧ u.getP d = s.getP a)

/-- 40_data_movement.md rules R106 to R109. -/
def Obligations.MovesAndMeasures : Prop :=
  ∀ (s : State) (d a : PIx) (r : RIx),
    decode (pack 0x06 d a 0 0 0 0) = .ok (.pmov d a) ∧ decode (pack 0x07 r a 0 0 0 0) = .ok (.plen r a) ∧
    decode (pack 0x08 r a 0 0 0 0) = .ok (.pdeg r a) ∧ decode (pack 0x09 d a 0 0 0 0) = .ok (.ptrim d a) ∧
    exec (.pmov d a) s = .next (s.setP d (s.getP a)).complete ∧
    exec (.plen r a) s = .next (s.setR r (BitVec.ofNat 16 (s.getP a).length)).complete ∧
    ((∀ k, coef (s.getP a) k = 0) → exec (.pdeg r a) s = .next (s.setR r 0xFFFF).complete) ∧
    (∀ k, coef (s.getP a) k ≠ 0 → (∀ i, k < i → coef (s.getP a) i = 0) →
      exec (.pdeg r a) s = .next (s.setR r (BitVec.ofNat 16 k)).complete) ∧
    (∃ q, exec (.ptrim d a) s = .next (s.setP d q).complete ∧ Trimmed q ∧ ∀ k, coef q k = coef (s.getP a) k)

/-! Field -/

/-- 10_state.md rule R30: the two tables are inverse to each other. -/
def Obligations.ExpAndLogAreInverse : Prop :=
  ∀ c : Config, primitive c = true →
    (∀ a : Byte, a ≠ 0 → (builtTables c).logAt a < 255 ∧ (builtTables c).expAt ((builtTables c).logAt a) = a) ∧
    (∀ i : Nat, i < 255 → (builtTables c).expAt i ≠ 0 ∧ (builtTables c).logAt ((builtTables c).expAt i) = i)

/-- 41_field.md rules R122, R123: the product and the inverse by the tables, and that they are those of a field with
XOR as addition. -/
def Obligations.TableArithmeticIsAField : Prop :=
  ∀ (c : Config) (t : Tables) (x y z : Byte), primitive c = true → t = builtTables c →
    gfMul t x y = (if x = 0 ∨ y = 0 then 0 else t.exp[(t.logAt x + t.logAt y) % 255]'(Nat.mod_lt _ (by decide))) ∧
    (x ≠ 0 → gfInv t x = t.exp[(255 - t.logAt x) % 255]'(Nat.mod_lt _ (by decide))) ∧ gfInv t 1 = 1 ∧
    gfMul t x y = gfMul t y x ∧ gfMul t (gfMul t x y) z = gfMul t x (gfMul t y z) ∧
    gfMul t x (gfAdd y z) = gfAdd (gfMul t x y) (gfMul t x z) ∧ gfMul t x 1 = x ∧
    (x ≠ 0 → gfMul t x (gfInv t x) = 1) ∧ (gfMul t x y = 0 → x = 0 ∨ y = 0)

/-- 00_scope.md rule R10 with 41_field.md rule R122: the product by the tables is the product of residues modulo
`PRIM_POLY`. -/
def Obligations.TableProductIsResidueProduct : Prop :=
  ∀ (c : Config) (x y : Byte), primitive c = true → gfMul (builtTables c) x y = residueMul c x y

/-- 41_field.md rules R126, R127. -/
def Obligations.FieldAddAndMultiply : Prop :=
  ∀ (s : State) (d a b : RIx),
    decode (pack 0x10 d a b 0 0 0) = .ok (.gfadd d a b) ∧ decode (pack 0x11 d a b 0 0 0) = .ok (.gfmul d a b) ∧
    ((s.getR a).toNat ≤ 255 → (s.getR b).toNat ≤ 255 →
      exec (.gfadd d a b) s = .next (s.setR d (s.getR a ^^^ s.getR b)).complete ∧
      exec (.gfmul d a b) s = .next (s.setR d
        (if s.getR a = 0 ∨ s.getR b = 0 then 0
          else (s.tables.expAt (s.tables.logAt ((s.getR a).setWidth 8) + s.tables.logAt ((s.getR b).setWidth 8))).setWidth
            16)).complete) ∧
    ((s.getR a).toNat > 255 ∨ (s.getR b).toNat > 255 →
      exec (.gfadd d a b) s = .next (s.raise .cmdOperand) ∧ exec (.gfmul d a b) s = .next (s.raise .cmdOperand))

/-- 41_field.md rules R128, R130: the inverse and the logarithm, and their failures in order. -/
def Obligations.FieldInverseAndLogarithm : Prop :=
  ∀ (s : State) (d a : RIx),
    decode (pack 0x12 d a 0 0 0 0) = .ok (.gfinv d a) ∧ decode (pack 0x14 d a 0 0 0 0) = .ok (.gflog d a) ∧
    ((s.getR a).toNat ≤ 255 → s.getR a ≠ 0 →
      exec (.gfinv d a) s =
        .next (s.setR d ((s.tables.expAt ((255 - s.tables.logAt ((s.getR a).setWidth 8)) % 255)).setWidth 16)).complete ∧
      exec (.gflog d a) s = .next (s.setR d (BitVec.ofNat 16 (s.tables.logAt ((s.getR a).setWidth 8)))).complete) ∧
    ((s.getR a).toNat > 255 →
      exec (.gfinv d a) s = .next (s.raise .cmdOperand) ∧ exec (.gflog d a) s = .next (s.raise .cmdOperand)) ∧
    (s.getR a = 0 →
      exec (.gfinv d a) s = .next (s.raise .cmdDomain) ∧ exec (.gflog d a) s = .next (s.raise .cmdDomain)) ∧
    (s.TablesBuilt → s.getR a ≠ 0 → (s.getR a).toNat ≤ 255 → s.tables.logAt ((s.getR a).setWidth 8) ≤ 254)

/-- 41_field.md rules R125, R129, R131: the power with a signed exponent and its consequences, and the antilog lookup
with any index. -/
def Obligations.FieldPowerAndAntilog : Prop :=
  (∀ (s : State) (d a b : RIx),
    decode (pack 0x13 d a b 0 0 0) = .ok (.gfpow d a b) ∧ decode (pack 0x15 d a 0 0 0 0) = .ok (.gfexp d a) ∧
    ((s.getR a).toNat ≤ 255 → s.getR a ≠ 0 →
      exec (.gfpow d a b) s = .next (s.setR d
        ((s.tables.expAt ((s.tables.logAt ((s.getR a).setWidth 8) * (s.getR b).toInt) % 255).toNat).setWidth 16)).complete) ∧
    (s.getR a = 0 → 0 < (s.getR b).toInt → exec (.gfpow d a b) s = .next (s.setR d 0).complete) ∧
    (s.getR a = 0 → s.getR b = 0 → exec (.gfpow d a b) s = .next (s.setR d 1).complete) ∧
    (s.getR a = 0 → (s.getR b).toInt < 0 → exec (.gfpow d a b) s = .next (s.raise .cmdDomain)) ∧
    ((s.getR a).toNat > 255 → exec (.gfpow d a b) s = .next (s.raise .cmdOperand)) ∧
    exec (.gfexp d a) s = .next (s.setR d ((s.tables.expAt ((s.getR a).toNat % 255)).setWidth 16)).complete ∧
    (s.TablesBuilt → s.tables.expAt ((s.getR a).toNat % 255) ≠ 0)) ∧
  ∀ (c : Config) (a : Byte) (n i : Int), primitive c = true →
    gfPow (builtTables c) a 0 = 1 ∧ gfPow (builtTables c) a 1 = a ∧
    (a ≠ 0 → gfPow (builtTables c) a (-1) = gfInv (builtTables c) a) ∧
    (a ≠ 0 → gfPow (builtTables c) a (n + 255) = gfPow (builtTables c) a n) ∧
    gfPow (builtTables c) 2 i = (builtTables c).alpha i

/-! Polynomials -/

/-- 42_polynomial.md rule R140 (a), (b): zero top lanes of an operand never change a result, and every result is
trimmed. -/
def Obligations.ResultsIgnoreZeroTopLanes : Prop :=
  ∀ (c : Config) (a b : Poly) (k x : Byte), primitive c = true →
    polyAdd (trim a) (trim b) = polyAdd a b ∧ Trimmed (polyAdd a b) ∧
    polyMul (builtTables c) (trim a) (trim b) = polyMul (builtTables c) a b ∧ Trimmed (polyMul (builtTables c) a b) ∧
    polyScale (builtTables c) (trim a) k = polyScale (builtTables c) a k ∧ Trimmed (polyScale (builtTables c) a k) ∧
    polyDivmod (builtTables c) (trim a) (trim b) = polyDivmod (builtTables c) a b ∧
    Trimmed (polyDivmod (builtTables c) a b).1 ∧ Trimmed (polyDivmod (builtTables c) a b).2 ∧
    polyEval (builtTables c) (trim a) x = polyEval (builtTables c) a x ∧
    polyDeriv (trim a) = polyDeriv a ∧ Trimmed (polyDeriv a)

/-- 42_polynomial.md rules R143, R144: the product, its degree, and the overflow test. -/
def Obligations.PmulMultiplies : Prop :=
  ∀ (s : State) (d a b : PIx), s.TablesBuilt →
    decode (pack 0x21 d a b 0 0 0) = .ok (.pmul d a b) ∧
    (deg (s.getP a) < 0 ∨ deg (s.getP b) < 0 → exec (.pmul d a b) s = .next (s.setP d []).complete) ∧
    (0 ≤ deg (s.getP a) → 0 ≤ deg (s.getP b) → deg (s.getP a) + deg (s.getP b) ≤ 255 →
      ∃ q, exec (.pmul d a b) s = .next (s.setP d q).complete ∧ Trimmed q ∧
        deg q = deg (s.getP a) + deg (s.getP b) ∧
        ∀ k, coef q k = xorSum (k + 1) fun i => gfMul s.tables (coef (s.getP a) i) (coef (s.getP b) (k - i))) ∧
    (0 ≤ deg (s.getP a) → 0 ≤ deg (s.getP b) → deg (s.getP a) + deg (s.getP b) > 255 →
      exec (.pmul d a b) s = .next (s.raise .cmdOverflow))

/-- 42_polynomial.md rules R141, R142, R145, R146, R151, R152: sum, scaling and derivative, coefficient by
coefficient. -/
def Obligations.PaddPscalePderiv : Prop :=
  ∀ (s : State) (d a c : PIx) (b : RIx),
    decode (pack 0x20 d a c 0 0 0) = .ok (.padd d a c) ∧ decode (pack 0x22 d a b 0 0 0) = .ok (.pscale d a b) ∧
    decode (pack 0x25 d a 0 0 0 0) = .ok (.pderiv d a) ∧
    (∃ q, exec (.padd d a c) s = .next (s.setP d q).complete ∧ Trimmed q ∧
      ∀ k, coef q k = coef (s.getP a) k ^^^ coef (s.getP c) k) ∧
    ((s.getR b).toNat ≤ 255 →
      ∃ q, exec (.pscale d a b) s = .next (s.setP d q).complete ∧ Trimmed q ∧
        ∀ k, coef q k = gfMul s.tables (coef (s.getP a) k) ((s.getR b).setWidth 8)) ∧
    ((s.getR b).toNat > 255 → exec (.pscale d a b) s = .next (s.raise .cmdOperand)) ∧
    (∃ q, exec (.pderiv d a) s = .next (s.setP d q).complete ∧ Trimmed q ∧
      ∀ k, coef q k = if k % 2 = 0 then coef (s.getP a) (k + 1) else 0)

/-- 42_polynomial.md rules R149, R150: the value is the sum of the terms p_i·x^i. -/
def Obligations.PevalIsSumOfTerms : Prop :=
  ∀ (s : State) (d : RIx) (a : PIx) (b : RIx), s.TablesBuilt →
    decode (pack 0x24 d a b 0 0 0) = .ok (.peval d a b) ∧
    ((s.getR b).toNat ≤ 255 →
      exec (.peval d a b) s = .next (s.setR d
        ((xorSum (s.getP a).length fun i =>
          gfMul s.tables (coef (s.getP a) i) (gfPow s.tables ((s.getR b).setWidth 8) i)).setWidth 16)).complete) ∧
    ((s.getR b).toNat > 255 → exec (.peval d a b) s = .next (s.raise .cmdOperand))

/-- 42_polynomial.md rules R147, R148: quotient and remainder, and a zero divisor is CFG_DIVZERO and FATAL. -/
def Obligations.PdivDividesWithRemainder : Prop :=
  ∀ (s : State) (q r a b : PIx), s.TablesBuilt →
    (q ≠ r → decode (pack 0x23 q r a b 0 0) = .ok (.pdiv q r a b)) ∧
    decode (pack 0x23 q q a b 0 0) = .error .sameDestination ∧
    (0 ≤ deg (s.getP b) →
      ∃ u v, exec (.pdiv q r a b) s = .next ((s.setP q u).setP r v).complete ∧ Trimmed u ∧ Trimmed v ∧
        (∀ k, coef (s.getP a) k = coef (polyAdd (polyMul s.tables u (s.getP b)) v) k) ∧
        deg v < deg (s.getP b) ∧
        (deg (s.getP b) ≤ deg (s.getP a) → deg u = deg (s.getP a) - deg (s.getP b))) ∧
    (deg (s.getP b) < 0 →
      ∃ t, exec (.pdiv q r a b) s = .next t ∧ t = s.raise .cfgDivzero ∧ t.status.fatal = true)

/-! Syndrome, locators, roots, magnitudes -/

/-- 43_syndrome.md rules R161, R162: `NSYM` syndromes, the length kept, and the flag SZ. -/
def Obligations.SyndEvaluatesAtPowers : Prop :=
  ∀ (s : State) (d a : PIx),
    decode (pack 0x30 d a 0 0 0 0) = .ok (.synd d a) ∧
    ∃ syn z, exec (.synd d a) s = .next ((s.setP d syn).setSz z).complete ∧ syn.length = s.nsym.toNat ∧
      (∀ i, i < s.nsym.toNat → coef syn i = polyEval s.tables (s.getP a) (s.tables.alpha i)) ∧
      (z = true ↔ ∀ i, i < s.nsym.toNat → coef syn i = 0)

/-- 43_syndrome.md rules R163, R164: the erasure locator is the product of the factors 1 + alpha(p) x, in any order; it
has constant term 1, one lane more than the list has entries, and exactly the roots alpha(-p). -/
def Obligations.EralocLocatesErasures : Prop :=
  ∀ (s : State) (d e : PIx), s.TablesBuilt →
    decode (pack 0x31 d e 0 0 0 0) = .ok (.eraloc d e) ∧
    (erasLoc s.tables [] = [1] ∧
      ∀ (l : Poly) (p : Byte),
        erasLoc s.tables (l ++ [p]) = polyMul s.tables (erasLoc s.tables l) [1, s.tables.alpha p.toNat]) ∧
    ((s.getP e).length ≤ 255 → (∀ p ∈ s.getP e, p.toNat ≤ 254) →
      ∃ g, exec (.eraloc d e) s = .next (s.setP d g).complete ∧ g = erasLoc s.tables (s.getP e) ∧
        (∀ l : Poly, l.Perm (s.getP e) → erasLoc s.tables l = g) ∧
        g.length = (s.getP e).length + 1 ∧ Trimmed g ∧ coef g 0 = 1 ∧
        ∀ x, polyEval s.tables g x = 0 ↔ ∃ p ∈ s.getP e, x = s.tables.alpha (-(p.toNat : Int))) ∧
    ((s.getP e).length > 255 ∨ (∃ p ∈ s.getP e, p.toNat > 254) →
      exec (.eraloc d e) s = .next (s.raise .cmdOperand))

/-- 43_syndrome.md rules R165, R166: the product of syndrome and locator modulo x^nsym. -/
def Obligations.OmegaIsProductModulo : Prop :=
  ∀ (s : State) (d x l : PIx),
    decode (pack 0x32 d x l 0 0 0) = .ok (.omega d x l) ∧
    ∃ o, exec (.omega d x l) s = .next (s.setP d o).complete ∧ Trimmed o ∧
      ∀ k, coef o k =
        if k < s.nsym.toNat then
          xorSum (k + 1) fun i => gfMul s.tables (coef (s.getP x) i) (coef (s.getP l) (k - i))
        else 0

/-- 44_locator.md rules R171, R172: u·r1 + v·r2 = r, r divides both, and the three values fit their registers. -/
def Obligations.XgcdGivesBezout : Prop :=
  ∀ (s : State) (u v r a b : PIx), s.TablesBuilt →
    (u ≠ v → u ≠ r → v ≠ r → decode (pack 0x38 u v r a b 0) = .ok (.xgcd u v r a b)) ∧
    ∃ x y g, exec (.xgcd u v r a b) s = .next (((s.setP u x).setP v y).setP r g).complete ∧
      (∀ k, coef (polyAdd (polyMul s.tables x (s.getP a)) (polyMul s.tables y (s.getP b))) k = coef g k) ∧
      (∃ q, ∀ k, coef (s.getP a) k = coef (polyMul s.tables q g) k) ∧
      (∃ q, ∀ k, coef (s.getP b) k = coef (polyMul s.tables q g) k) ∧
      ((s.getP a).length ≤ 256 → (s.getP b).length ≤ 256 → x.length ≤ 256 ∧ y.length ≤ 256 ∧ g.length ≤ 256)

/-- 44_locator.md rules R173, R174: SUGI answers the first triple of the remainder sequence whose remainder is at most the
bound. `rem 0`, `rem 1`, … are the remainders from trim r1 and trim r2 on, `quo k` the quotients and `cu`, `cv` the two
cofactors; the triple is that of index `n + 1`, and every remainder from `rem 1` to `rem n` is above the bound. It keeps
u·r1 + v·r2 = r; a bound that r2 meets already gives ([], [1], trim r2); a bound below -1 is CMD_OPERAND. -/
def Obligations.SugiStopsAtBound : Prop :=
  ∀ (s : State) (u v r a b : PIx) (c : RIx), s.TablesBuilt →
    (u ≠ v → u ≠ r → v ≠ r → decode (pack 0x39 u v r a b c) = .ok (.sugi u v r a b c)) ∧
    (-1 ≤ (s.getR c).toInt →
      ∃ x y g, exec (.sugi u v r a b c) s = .next (((s.setP u x).setP v y).setP r g).complete ∧
        deg g ≤ (s.getR c).toInt ∧
        (∃ (n : Nat) (quo rem cu cv : Nat → Poly),
          rem 0 = trim (s.getP a) ∧ rem 1 = trim (s.getP b) ∧ cu 0 = [1] ∧ cu 1 = [] ∧ cv 0 = [] ∧ cv 1 = [1] ∧
          (∀ k, k < n →
            (s.getR c).toInt < deg (rem (k + 1)) ∧ deg (rem (k + 2)) < deg (rem (k + 1)) ∧
            rem k = polyAdd (polyMul s.tables (quo k) (rem (k + 1))) (rem (k + 2)) ∧
            cu (k + 2) = polyAdd (cu k) (polyMul s.tables (quo k) (cu (k + 1))) ∧
            cv (k + 2) = polyAdd (cv k) (polyMul s.tables (quo k) (cv (k + 1)))) ∧
          x = cu (n + 1) ∧ y = cv (n + 1) ∧ g = rem (n + 1)) ∧
        (∀ k, coef (polyAdd (polyMul s.tables x (s.getP a)) (polyMul s.tables y (s.getP b))) k = coef g k) ∧
        (deg (s.getP b) ≤ (s.getR c).toInt → x = [] ∧ y = [1] ∧ g = trim (s.getP b))) ∧
    ((s.getR c).toInt < -1 → exec (.sugi u v r a b c) s = .next (s.raise .cmdOperand))

/-- 44_locator.md rules R175, R176: the Euclidean locator, its normalisation, and its failures in order. `v` is the
cofactor of the bounded loop started from x^nsym and the erasure-modified syndrome. -/
def Obligations.ElocSolvesOrReports : Prop :=
  ∀ (s : State) (d x e : PIx) (validate : Bool) (g v : Poly), s.TablesBuilt →
    g = erasLoc s.tables (s.getP e) →
    v = (sugiyama s.tables (xPow s.nsym.toNat)
      (evaluator s.tables (firstCoefs (s.getP x) s.nsym.toNat) g s.nsym.toNat)
      (((s.nsym.toNat + (s.getP e).length) / 2 : Nat) - 1)).2.1 →
    decode (pack 0x3A d x e (if validate then 1 else 0) 0 0) = .ok (.eloc d x e validate) ∧
    ((s.getP e).length > 255 ∨ (∃ p ∈ s.getP e, p.toNat > 254) →
      exec (.eloc d x e validate) s = .next (s.raise .cmdOperand)) ∧
    ((s.getP e).length ≤ 255 → (∀ p ∈ s.getP e, p.toNat ≤ 254) →
      ((s.getP e).length > s.nsym.toNat → exec (.eloc d x e validate) s = .next (s.raise .uncCapacity)) ∧
      ((s.getP e).length ≤ s.nsym.toNat → coef v 0 = 0 →
        exec (.eloc d x e validate) s = .next (s.raise .uncLambda0)) ∧
      ((s.getP e).length ≤ s.nsym.toNat → coef v 0 ≠ 0 →
        ∃ loc roots : Poly, coef loc 0 = 1 ∧ deg loc ≤ s.nsym.toNat ∧ Trimmed loc ∧
          (∀ k, coef loc k = gfMul s.tables (coef (polyMul s.tables v g) k) (gfInv s.tables (coef v 0))) ∧
          roots.Nodup ∧ (∀ y, y ∈ roots ↔ polyEval s.tables loc y = 0) ∧
          (validate = false ∨ (2 * deg loc - (s.getP e).length ≤ s.nsym.toNat ∧ (roots.length : Int) = deg loc) →
            exec (.eloc d x e validate) s = .next (s.setP d loc).complete) ∧
          (validate = true → 2 * deg loc - (s.getP e).length > s.nsym.toNat →
            exec (.eloc d x e validate) s = .next (s.raise .uncCapacity)) ∧
          (validate = true → 2 * deg loc - (s.getP e).length ≤ s.nsym.toNat → (roots.length : Int) ≠ deg loc →
            exec (.eloc d x e validate) s = .next (s.raise .uncFactor))))

/-- 44_locator.md rules R178, R179: the Berlekamp-Massey locator never needs normalising, fits its register and is a
multiple of the erasure locator; without validation the command always completes. -/
def Obligations.BmlocSolvesOrReports : Prop :=
  ∀ (s : State) (d x e : PIx) (validate : Bool), s.TablesBuilt →
    decode (pack 0x3B d x e (if validate then 1 else 0) 0 0) = .ok (.bmloc d x e validate) ∧
    ((s.getP e).length > 255 ∨ (∃ p ∈ s.getP e, p.toNat > 254) →
      exec (.bmloc d x e validate) s = .next (s.raise .cmdOperand)) ∧
    ((s.getP e).length ≤ 255 → (∀ p ∈ s.getP e, p.toNat ≤ 254) →
      ((s.getP e).length > s.nsym.toNat → exec (.bmloc d x e validate) s = .next (s.raise .uncCapacity)) ∧
      ((s.getP e).length ≤ s.nsym.toNat →
        ∃ loc roots : Poly,
          loc = bmLocator s.tables (firstCoefs (s.getP x) s.nsym.toNat) (s.getP e) s.nsym.toNat ∧
          coef loc 0 = 1 ∧ deg loc ≤ s.nsym.toNat ∧ Trimmed loc ∧
          (∃ k, ∀ j, coef loc j = coef (polyMul s.tables k (erasLoc s.tables (s.getP e))) j) ∧
          roots.Nodup ∧ (∀ y, y ∈ roots ↔ polyEval s.tables loc y = 0) ∧
          (validate = false ∨ (2 * deg loc - (s.getP e).length ≤ s.nsym.toNat ∧ (roots.length : Int) = deg loc) →
            exec (.bmloc d x e validate) s = .next (s.setP d loc).complete) ∧
          (validate = true → 2 * deg loc - (s.getP e).length > s.nsym.toNat →
            exec (.bmloc d x e validate) s = .next (s.raise .uncCapacity)) ∧
          (validate = true → 2 * deg loc - (s.getP e).length ≤ s.nsym.toNat → (roots.length : Int) ≠ deg loc →
            exec (.bmloc d x e validate) s = .next (s.raise .uncFactor))))

/-- 44_locator.md rules R175, R178: for a zero syndrome both solvers answer the erasure locator. -/
def Obligations.ZeroSyndromeGivesErasureLocator : Prop :=
  ∀ (s : State) (d x e : PIx), s.TablesBuilt →
    (s.getP e).length ≤ s.nsym.toNat → (∀ p ∈ s.getP e, p.toNat ≤ 254) →
    (∀ k, k < s.nsym.toNat → coef (s.getP x) k = 0) →
    exec (.eloc d x e false) s = .next (s.setP d (erasLoc s.tables (s.getP e))).complete ∧
    exec (.bmloc d x e false) s = .next (s.setP d (erasLoc s.tables (s.getP e))).complete

/-- 44_locator.md rule R180: within capacity both solvers answer the product of (1 + alpha(p) x) over the erased and
the erroneous positions, and neither fails. `err` lists the erroneous positions outside `e`. -/
def Obligations.SolversAgreeWithinCapacity : Prop :=
  ∀ (c : Config) (word noise e : Poly) (err : List Nat) (nsym : Nat), primitive c = true → nsym ≤ 255 →
    Codeword (builtTables c) word nsym →
    (e.map BitVec.toNat ++ err).Nodup → (∀ p ∈ e.map BitVec.toNat ++ err, p ≤ 254) →
    2 * err.length + e.length ≤ nsym →
    (∀ p ∈ err, coef noise p ≠ 0) → (∀ p, p ∉ e.map BitVec.toNat ++ err → coef noise p = 0) →
    euclidLocator (builtTables c) (syndrome (builtTables c) (polyAdd word noise) nsym) e nsym =
      .ok (locatorOf (builtTables c) (e.map BitVec.toNat ++ err)) ∧
    bmLocator (builtTables c) (syndrome (builtTables c) (polyAdd word noise) nsym) e nsym =
      locatorOf (builtTables c) (e.map BitVec.toNat ++ err)

/-- 45_roots.md rules R191 to R194: all the roots in ascending order when their number is the degree, otherwise the
empty list and RM = 0; GETPOS turns them into positions and fails on the root 0. -/
def Obligations.RootsAndPositions : Prop :=
  ∀ (s : State) (d a : PIx),
    decode (pack 0x40 d a 0 0 0 0) = .ok (.froots d a) ∧ decode (pack 0x41 d a 0 0 0 0) = .ok (.getpos d a) ∧
    ∃ roots : Poly, roots.Pairwise (fun x y => x.toNat < y.toNat) ∧
      (∀ x, x ∈ roots ↔ polyEval s.tables (s.getP a) x = 0) ∧
      ((roots.length : Int) = deg (s.getP a) →
        exec (.froots d a) s = .next ((s.setP d roots).setRm true).complete ∧
        (coef (s.getP a) 0 ≠ 0 →
          exec (.getpos d a) s = .next
            ((s.setP d (roots.map fun x => BitVec.ofNat 8 ((255 - s.tables.logAt x) % 255))).setRm true).complete) ∧
        (coef (s.getP a) 0 = 0 → exec (.getpos d a) s = .next (s.raise .cmdDomain))) ∧
      ((roots.length : Int) ≠ deg (s.getP a) →
        exec (.froots d a) s = .next ((s.setP d []).setRm false).complete ∧
        exec (.getpos d a) s = .next ((s.setP d []).setRm false).complete)

/-- 46_forney.md rules R201, R202: the magnitudes, a zero denominator is CFG_FORNEY_DEN and FATAL. -/
def Obligations.ForneyComputesMagnitudes : Prop :=
  ∀ (s : State) (d l o pp : PIx),
    decode (pack 0x42 d l o pp 0 0) = .ok (.forney d l o pp) ∧
    ((s.getP pp).length > 255 ∨ (∃ p ∈ s.getP pp, p.toNat > 254) →
      exec (.forney d l o pp) s = .next (s.raise .cmdOperand)) ∧
    ((s.getP pp).length ≤ 255 → (∀ p ∈ s.getP pp, p.toNat ≤ 254) →
      ((∀ p ∈ s.getP pp, polyEval s.tables (polyDeriv (s.getP l)) (s.tables.alpha (-(p.toNat : Int))) ≠ 0) →
        ∃ m : Poly, exec (.forney d l o pp) s = .next (s.setP d m).complete ∧ m.length = (s.getP pp).length ∧
          ∀ j, j < (s.getP pp).length →
            coef m j =
              gfMul s.tables
                (gfMul s.tables (s.tables.alpha (coef (s.getP pp) j).toNat)
                  (polyEval s.tables (s.getP o) (s.tables.alpha (-((coef (s.getP pp) j).toNat : Int)))))
                (gfInv s.tables (polyEval s.tables (polyDeriv (s.getP l))
                  (s.tables.alpha (-((coef (s.getP pp) j).toNat : Int)))))) ∧
      ((∃ p ∈ s.getP pp, polyEval s.tables (polyDeriv (s.getP l)) (s.tables.alpha (-(p.toNat : Int))) = 0) →
        ∃ t, exec (.forney d l o pp) s = .next t ∧ t = s.raise .cfgForneyDen ∧ t.status.fatal = true))

/-- 46_forney.md rules R203, R204: the failures of FILLER, and that CFG_FORNEY_DEN cannot occur: with operands in
range it completes with the magnitudes Forney gives for the erasure locator, changes only listed positions, counts every
listed position and reports the syndrome of the input block. -/
def Obligations.FillerCompletes : Prop :=
  ∀ (s : State) (d a pp : PIx), s.TablesBuilt →
    decode (pack 0x43 d a pp 0 0 0) = .ok (.filler d a pp) ∧
    ((s.getP a).length < 1 ∨ (s.getP a).length > 255 ∨ s.nsym.toNat > (s.getP a).length ∨ (s.getP pp).length > 255 ∨
        (∃ p ∈ s.getP pp, p.toNat ≥ (s.getP a).length) ∨ ¬ (s.getP pp).Nodup →
      exec (.filler d a pp) s = .next (s.raise .cmdOperand)) ∧
    (1 ≤ (s.getP a).length → (s.getP a).length ≤ 255 → s.nsym.toNat ≤ (s.getP a).length → (s.getP pp).length ≤ 255 →
      (∀ p ∈ s.getP pp, p.toNat < (s.getP a).length) → (s.getP pp).Nodup →
      ((s.getP pp).length > s.nsym.toNat → exec (.filler d a pp) s = .next (s.raise .uncCapacity)) ∧
      ((s.getP pp).length ≤ s.nsym.toNat →
        ∃ c z m, exec (.filler d a pp) s =
            .next (((s.setP d c).setNcorr (s.getP pp).length).setSz z).complete ∧
          forney s.tables (erasLoc s.tables (s.getP pp))
            (evaluator s.tables (syndrome s.tables (s.getP a) s.nsym.toNat) (erasLoc s.tables (s.getP pp)) s.nsym.toNat)
            (s.getP pp) = .ok m ∧
          c = applyMags (s.getP a) (s.getP pp) m ∧
          c.length = (s.getP a).length ∧ (∀ i, (∀ p ∈ s.getP pp, p.toNat ≠ i) → coef c i = coef (s.getP a) i) ∧
          (z = true ↔ ∀ i, i < s.nsym.toNat → polyEval s.tables (s.getP a) (s.tables.alpha i) = 0)))

/-- 46_forney.md rule R203: FILLER is correct when the list contains every position at which the block differs from a
codeword. -/
def Obligations.FillerRestoresCodeword : Prop :=
  ∀ (s : State) (d a pp : PIx) (c : Poly), s.TablesBuilt →
    1 ≤ (s.getP a).length → (s.getP a).length ≤ 255 → s.nsym.toNat ≤ (s.getP a).length →
    (∀ p ∈ s.getP pp, p.toNat < (s.getP a).length) → (s.getP pp).Nodup → (s.getP pp).length ≤ s.nsym.toNat →
    Codeword s.tables c s.nsym.toNat → AgreeOutside (s.getP a) c ((s.getP pp).map BitVec.toNat) →
    ∃ t, exec (.filler d a pp) s = .next t ∧ t.result = .ok ∧ t.getP d = c ∧
      t.ncorr = BitVec.ofNat 8 (s.getP pp).length

/-- 46_forney.md rules R205, R206: every lane is XORed with the magnitudes listed for its position; the length is
kept. -/
def Obligations.ApplyXorsMagnitudes : Prop :=
  ∀ (s : State) (d a pp m : PIx),
    decode (pack 0x44 d a pp m 0 0) = .ok (.apply d a pp m) ∧
    ((s.getP pp).length = (s.getP m).length → (∀ p ∈ s.getP pp, p.toNat < (s.getP a).length) →
      ∃ c, exec (.apply d a pp m) s = .next (s.setP d c).complete ∧ c.length = (s.getP a).length ∧
        ∀ i, coef c i = coef (s.getP a) i ^^^
          xorSum (s.getP pp).length fun j => if (coef (s.getP pp) j).toNat = i then coef (s.getP m) j else 0) ∧
    ((s.getP pp).length ≠ (s.getP m).length ∨ (∃ p ∈ s.getP pp, p.toNat ≥ (s.getP a).length) →
      exec (.apply d a pp m) s = .next (s.raise .cmdOperand))

/-! The decode -/

/-- 47_orchestrator.md rules R212, R214 (a): a block whose syndromes are all 0 is returned unchanged with `NCORR` = 0
and SZ = 1, whatever the options and the declared erasures; the operand tests come first. -/
def Obligations.RsdecReturnsCodewordUnchanged : Prop :=
  ∀ (s : State) (d a e : PIx),
    decode (pack 0x50 d a e 0 0 0) = .ok (.rsdec d a e) ∧
    ((s.getP a).length < 1 ∨ (s.getP a).length > 255 ∨ s.nsym.toNat > (s.getP a).length ∨ (s.getP e).length > 255 ∨
        (∃ p ∈ s.getP e, p.toNat ≥ (s.getP a).length) ∨ ¬ (s.getP e).Nodup →
      exec (.rsdec d a e) s = .next (s.raise .cmdOperand)) ∧
    (1 ≤ (s.getP a).length → (s.getP a).length ≤ 255 → s.nsym.toNat ≤ (s.getP a).length →
      (∀ p ∈ s.getP e, p.toNat < (s.getP a).length) → (s.getP e).Nodup →
      ((s.getP e).length > s.nsym.toNat → (s.getP e).length ≤ 255 →
        exec (.rsdec d a e) s = .next (s.raise .uncCapacity)) ∧
      ((s.getP e).length ≤ s.nsym.toNat → Codeword s.tables (s.getP a) s.nsym.toNat →
        exec (.rsdec d a e) s = .next (((s.setP d (s.getP a)).setNcorr 0).setSz true).complete))

/-- 47_orchestrator.md rule R215: with `CTRL.RECHECK` = 1 a successful decode leaves a block of all-zero syndrome and
the same length, and a second decode of it, without erasures, returns it unchanged with `NCORR` = 0. -/
def Obligations.RecheckedDecodeIsIdempotent : Prop :=
  ∀ (s t : State) (d a e d' e' : PIx), s.ctrl.recheck = true → exec (.rsdec d a e) s = .next t → t.result = .ok →
    (t.getP d).length = (s.getP a).length ∧ Codeword s.tables (t.getP d) s.nsym.toNat ∧
    (t.getP e' = [] →
      exec (.rsdec d' d e') t = .next (((t.setP d' (t.getP d)).setNcorr 0).setSz true).complete)

/-- 47_orchestrator.md rule R213: a block within the capacity of the code is corrected to the codeword by either
algorithm, with or without the re-check, and `NCORR` counts the errors and the declared erasures; a block that already
is the codeword reports 0 (rule R212; log 8). -/
def Obligations.RsdecCorrectsWithinCapacity : Prop :=
  ∀ (s : State) (d a e : PIx) (c : Poly) (err : List Nat), s.TablesBuilt → s.ctrl.noerror = false →
    1 ≤ (s.getP a).length → (s.getP a).length ≤ 255 → s.nsym.toNat ≤ (s.getP a).length →
    ((s.getP e).map BitVec.toNat ++ err).Nodup →
    (∀ p ∈ (s.getP e).map BitVec.toNat ++ err, p < (s.getP a).length) →
    2 * err.length + (s.getP e).length ≤ s.nsym.toNat →
    Codeword s.tables c s.nsym.toNat → AgreeOutside (s.getP a) c ((s.getP e).map BitVec.toNat ++ err) →
    (∀ p ∈ err, coef (s.getP a) p ≠ coef c p) →
    ∃ t, exec (.rsdec d a e) s = .next t ∧ t.result = .ok ∧ t.getP d = c ∧
      t.ncorr = (if s.getP a = c then 0 else BitVec.ofNat 8 ((s.getP e).length + err.length))

/-- 47_orchestrator.md rules R211, R212: RSDEC on a block of operands in range whose syndrome is not all-zero: the causes
in the order tested, and the result. `loc` is the locator of the selected algorithm, `roots` its roots in ascending
order. Once the roots are counted no Forney denominator is 0, so with built tables CFG_FORNEY_DEN is never reported (note
(d) of rule R211). -/
def Obligations.RsdecReportsFirstCause : Prop :=
  ∀ (s : State) (d a e : PIx) (syn loc roots : Poly),
    1 ≤ (s.getP a).length → (s.getP a).length ≤ 255 → s.nsym.toNat ≤ (s.getP a).length →
    (∀ p ∈ s.getP e, p.toNat < (s.getP a).length) → (s.getP e).Nodup → (s.getP e).length ≤ s.nsym.toNat →
    syn = syndrome s.tables (s.getP a) s.nsym.toNat → ¬ Codeword s.tables (s.getP a) s.nsym.toNat →
    (s.ctrl.alg = .euclid → euclidLocator s.tables syn (s.getP e) s.nsym.toNat = .error .uncLambda0 →
      exec (.rsdec d a e) s = .next (s.raise .uncLambda0)) ∧
    ((s.ctrl.alg = .euclid ∧ euclidLocator s.tables syn (s.getP e) s.nsym.toNat = .ok loc) ∨
        (s.ctrl.alg = .berlekampMassey ∧ bmLocator s.tables syn (s.getP e) s.nsym.toNat = loc) →
      roots.Pairwise (fun x y => x.toNat < y.toNat) → (∀ y, y ∈ roots ↔ polyEval s.tables loc y = 0) →
      (2 * deg loc - (s.getP e).length > s.nsym.toNat → exec (.rsdec d a e) s = .next (s.raise .uncCapacity)) ∧
      (2 * deg loc - (s.getP e).length ≤ s.nsym.toNat →
        ((roots.length : Int) ≠ deg loc → exec (.rsdec d a e) s = .next (s.raise .uncFactor)) ∧
        ((roots.length : Int) = deg loc →
          (deg loc = 0 → exec (.rsdec d a e) s = .next (s.raise .uncEmpty)) ∧
          (deg loc ≠ 0 →
            ((∃ y ∈ roots, (255 - s.tables.logAt y) % 255 ≥ (s.getP a).length) →
              exec (.rsdec d a e) s = .next (s.raise .uncPosrange)) ∧
            ((∀ y ∈ roots, (255 - s.tables.logAt y) % 255 < (s.getP a).length) →
              ∀ pos : Poly, pos = roots.map (fun y => BitVec.ofNat 8 ((255 - s.tables.logAt y) % 255)) →
                (s.TablesBuilt →
                  ∃ m, forney s.tables loc (evaluator s.tables syn loc s.nsym.toNat) pos = .ok m) ∧
                (∀ why, forney s.tables loc (evaluator s.tables syn loc s.nsym.toNat) pos = .error why →
                  why = .cfgForneyDen ∧ exec (.rsdec d a e) s = .next (s.raise .cfgForneyDen)) ∧
                (∀ m c : Poly, forney s.tables loc (evaluator s.tables syn loc s.nsym.toNat) pos = .ok m →
                  c = applyMags (s.getP a) pos m →
                  (s.ctrl.recheck = true → ¬ Codeword s.tables c s.nsym.toNat →
                    exec (.rsdec d a e) s = .next (s.raise .uncRecheck)) ∧
                  (s.ctrl.recheck = false ∨ Codeword s.tables c s.nsym.toNat →
                    (s.ctrl.noerror = true → exec (.rsdec d a e) s = .next (s.raise .strictCorrected)) ∧
                    (s.ctrl.noerror = false →
                      exec (.rsdec d a e) s =
                        .next (((s.setP d c).setNcorr roots.length).setSz false).complete))))))))

/-- 47_orchestrator.md rule R212: strict mode replaces a success that corrected something by STRICT_CORRECTED and
changes no other outcome. -/
def Obligations.StrictModeReplacesCorrections : Prop :=
  ∀ (s t : State) (d a e : PIx), s.ctrl.noerror = false → exec (.rsdec d a e) s = .next t →
    (t.result = .ok → t.flags.sz = false →
      exec (.rsdec d a e) { s with ctrl := { s.ctrl with noerror := true } } =
        .next (({ s with ctrl := { s.ctrl with noerror := true } } : State).raise .strictCorrected)) ∧
    (t.result ≠ .ok ∨ t.flags.sz = true →
      exec (.rsdec d a e) { s with ctrl := { s.ctrl with noerror := true } } =
        .next { t with ctrl := { s.ctrl with noerror := true } })

/-! Frames -/

/-- The frame of the commands with one scalar destination (10_state.md rules R21, R25, 60_exceptions.md rule R236):
LI, PLEN, PDEG, GFADD, GFMUL, GFINV, GFPOW, GFLOG, GFEXP, PEVAL. -/
def Obligations.ScalarCommandsFrame : Prop :=
  ∀ (s t : State) (d a b : RIx) (p : PIx) (imm : Scalar),
    exec (.li d imm) s = .next t ∨ exec (.plen d p) s = .next t ∨ exec (.pdeg d p) s = .next t ∨
      exec (.gfadd d a b) s = .next t ∨ exec (.gfmul d a b) s = .next t ∨ exec (.gfinv d a) s = .next t ∨
      exec (.gfpow d a b) s = .next t ∨ exec (.gflog d a) s = .next t ∨ exec (.gfexp d a) s = .next t ∨
      exec (.peval d p b) s = .next t →
    (∀ j, j ≠ d → t.getR j = s.getR j) ∧ SameP s t ∧ SameBuf s t ∧ t.flags = s.flags ∧ t.ncorr = s.ncorr ∧
    SameControl s t ∧ t.status.fatal = s.status.fatal

/-- The frame of the commands with one polynomial destination and no flag: LDP, LDL, PMOV, PTRIM, PADD, PMUL, PSCALE,
PDERIV, ERALOC, OMEGA, ELOC, BMLOC, FORNEY, APPLY. Only FORNEY can latch FATAL (60_exceptions.md rule R238). -/
def Obligations.PolynomialCommandsFrame : Prop :=
  ∀ (s t : State) (d x y z : PIx) (a b : RIx) (v : Bool),
    exec (.ldp d a b) s = .next t ∨ exec (.ldl d a b) s = .next t ∨ exec (.pmov d x) s = .next t ∨
      exec (.ptrim d x) s = .next t ∨ exec (.padd d x y) s = .next t ∨ exec (.pmul d x y) s = .next t ∨
      exec (.pscale d x a) s = .next t ∨ exec (.pderiv d x) s = .next t ∨ exec (.eraloc d x) s = .next t ∨
      exec (.omega d x y) s = .next t ∨ exec (.eloc d x y v) s = .next t ∨ exec (.bmloc d x y v) s = .next t ∨
      exec (.forney d x y z) s = .next t ∨ exec (.apply d x y z) s = .next t →
    SameR s t ∧ (∀ j, j ≠ d → t.getP j = s.getP j) ∧ SameBuf s t ∧ t.flags = s.flags ∧ t.ncorr = s.ncorr ∧
    SameControl s t ∧ (t.status.fatal = s.status.fatal ∨ t.result = .cfgForneyDen)

/-- The frame of the commands with several polynomial destinations: PDIV, XGCD, SUGI. Only PDIV can latch FATAL. -/
def Obligations.SeveralDestinationsFrame : Prop :=
  ∀ (s t : State) (u v r a b : PIx) (c : RIx),
    (exec (.pdiv u v a b) s = .next t →
      SameR s t ∧ (∀ j, j ≠ u → j ≠ v → t.getP j = s.getP j) ∧ SameBuf s t ∧ t.flags = s.flags ∧ t.ncorr = s.ncorr ∧
      SameControl s t ∧ (t.status.fatal = s.status.fatal ∨ t.result = .cfgDivzero)) ∧
    (exec (.xgcd u v r a b) s = .next t ∨ exec (.sugi u v r a b c) s = .next t →
      SameR s t ∧ (∀ j, j ≠ u → j ≠ v → j ≠ r → t.getP j = s.getP j) ∧ SameBuf s t ∧ t.flags = s.flags ∧
      t.ncorr = s.ncorr ∧ SameControl s t ∧ t.status.fatal = s.status.fatal)

/-- The frame of the commands that write a flag or `NCORR` (10_state.md rules R25, R35): SYND writes SZ, FROOTS and
GETPOS write RM, FILLER and RSDEC write SZ and `NCORR`. -/
def Obligations.FlagCommandsFrame : Prop :=
  ∀ (s t : State) (d a e : PIx),
    (exec (.synd d a) s = .next t →
      SameR s t ∧ (∀ j, j ≠ d → t.getP j = s.getP j) ∧ SameBuf s t ∧ t.flags.rm = s.flags.rm ∧ t.ncorr = s.ncorr ∧
      SameControl s t ∧ t.status.fatal = s.status.fatal) ∧
    (exec (.froots d a) s = .next t ∨ exec (.getpos d a) s = .next t →
      SameR s t ∧ (∀ j, j ≠ d → t.getP j = s.getP j) ∧ SameBuf s t ∧ t.flags.sz = s.flags.sz ∧ t.ncorr = s.ncorr ∧
      SameControl s t ∧ t.status.fatal = s.status.fatal) ∧
    (exec (.filler d a e) s = .next t ∨ exec (.rsdec d a e) s = .next t →
      SameR s t ∧ (∀ j, j ≠ d → t.getP j = s.getP j) ∧ SameBuf s t ∧ t.flags.rm = s.flags.rm ∧
      SameControl s t ∧ (t.status.fatal = s.status.fatal ∨ t.result = .cfgForneyDen))

/-! What a command reads -/

/-- 10_state.md rules R25, R29, 47_orchestrator.md rule R216: only RSDEC reads `CTRL`, and no command reads a flag,
`NCORR`, `RESULT`, `EINFO` or `IEN`: whatever these hold, the cause and everything else a command leaves are the same, and
each flag, `NCORR` and `EINFO` is either left as it was in both runs or the same in both. -/
def Obligations.WhatCommandsRead : Prop :=
  (∀ (i : Instr) (s t : State) (c : Ctrl), (∀ d a e, i ≠ .rsdec d a e) → exec i s = .next t →
    exec i { s with ctrl := c } = .next { t with ctrl := c }) ∧
  (∀ (i : Instr) (s t : State) (f : Flags) (k : Byte) (c : Cause) (w : Word) (x : Ien), exec i s = .next t →
    ∃ u, exec i { s with flags := f, ncorr := k, result := c, einfo := w, ien := x } = .next u ∧
      SameR t u ∧ SameP t u ∧ SameBuf t u ∧ u.result = t.result ∧ u.status = t.status ∧
      u = { t with flags := u.flags, ncorr := u.ncorr, einfo := u.einfo, ien := x } ∧
      ((t.flags.sz = s.flags.sz ∧ u.flags.sz = f.sz) ∨ u.flags.sz = t.flags.sz) ∧
      ((t.flags.rm = s.flags.rm ∧ u.flags.rm = f.rm) ∨ u.flags.rm = t.flags.rm) ∧
      ((t.ncorr = s.ncorr ∧ u.ncorr = k) ∨ u.ncorr = t.ncorr) ∧
      ((t.einfo = s.einfo ∧ u.einfo = w) ∨ u.einfo = t.einfo))

/-! The host port -/

/-- 10_state.md rule R26: what each offset of the window reads as; 20_memory.md rule R64: a read is always performed,
returns the value and changes nothing else. -/
def Obligations.WindowReads : Prop :=
  ∀ s : State,
    s.read32 0x000 = 0 ∧
    (s.read32 0x004).toNat = s.status.busy.toNat + 2 * s.status.done.toNat + 4 * s.status.tblRdy.toNat +
      8 * s.status.fatal.toNat + 16 * s.status.ovr.toNat ∧
    (s.read32 0x008).toNat = (s.ctrl.alg == .berlekampMassey).toNat + 2 * s.ctrl.recheck.toNat +
      4 * s.ctrl.noerror.toNat ∧
    (s.read32 0x00C).toNat = s.nsym.toNat ∧ (s.read32 0x010).toNat = s.result.code.toNat ∧
    s.read32 0x014 = s.einfo ∧ (s.read32 0x018).toNat = s.ncorr.toNat ∧
    (s.read32 0x01C).toNat = s.flags.sz.toNat + 2 * s.flags.rm.toNat ∧
    (s.read32 0x020).toNat = 256 + s.cfg.primLow.toNat ∧
    (s.read32 0x024).toNat = s.ien.ieDone.toNat + 2 * s.ien.ieFatal.toNat ∧
    (∀ k, 0x028 ≤ k → k ≤ 0x03C → s.read32 k = 0) ∧
    (∀ i : RIx, (s.read32 (0x040 + 4 * i.val)).toNat = (s.getR i).toNat) ∧
    (∀ k, 0x080 ≤ k → k ≤ 0x3FC → s.read32 k = 0) ∧
    (∀ k, 0x400 ≤ k → k ≤ 0x7FC → s.read32 k = s.bufWord (k - 0x400)) ∧
    (∀ off, off % 4 = 0 → off < 0x800 →
      step (s.withHostOp (.read32 off)) = .next { s with reply := some (.word (s.read32 off)) }) ∧
    (∀ off, 0x400 ≤ off → off < 0x800 →
      step (s.withHostOp (.read8 off)) = .next { s with reply := some (.byte (s.bufByte (off - 0x400))) })

/-- 10_state.md rule R27: a write to `CMD` is accepted when BUSY = 0 and FATAL = 0, and otherwise dropped with OVR;
reads of `CMD` return 0. -/
def Obligations.CmdWriteIsAcceptedOrDropped : Prop :=
  ∀ (s : State) (w : Word),
    (s.status.busy = false → s.status.fatal = false →
      step (s.withHostOp (.write32 0 w)) =
        .next { s with pend := w, status := { s.status with busy := true, done := false } }) ∧
    (s.status.busy = true ∨ s.status.fatal = true →
      step (s.withHostOp (.write32 0 w)) = .next { s with status := { s.status with ovr := true } }) ∧
    s.read32 0 = 0

/-- 20_memory.md rule R64, 10_state.md rules R26, R28, R44: what a write does when the core is not busy, at every
offset but `CMD`, and that while BUSY = 1 every write is dropped and only sets OVR. A write to a read-only register is
ignored (log 5). -/
def Obligations.HostWrites : Prop :=
  ∀ (s : State) (v : Word) (b : Byte),
    (s.status.busy = false →
      step (s.withHostOp (.write32 0x004 v)) = .next { s with status := { s.status with
        done := s.status.done && !v.getLsbD 1, ovr := s.status.ovr && !v.getLsbD 4 } } ∧
      step (s.withHostOp (.write32 0x008 v)) = .next { s with ctrl := {
        alg := if v.getLsbD 0 then .berlekampMassey else .euclid, recheck := v.getLsbD 1, noerror := v.getLsbD 2 } } ∧
      step (s.withHostOp (.write32 0x00C v)) = .next { s with nsym := v.setWidth 8 } ∧
      step (s.withHostOp (.write32 0x024 v)) =
        .next { s with ien := { ieDone := v.getLsbD 0, ieFatal := v.getLsbD 1 } } ∧
      (∀ i : RIx, step (s.withHostOp (.write32 (0x040 + 4 * i.val) v)) = .next (s.setR i (v.setWidth 16))) ∧
      (∀ k, k % 4 = 0 → (0x010 ≤ k ∧ k ≤ 0x020) ∨ (0x028 ≤ k ∧ k ≤ 0x03C) ∨ (0x080 ≤ k ∧ k ≤ 0x3FC) →
        step (s.withHostOp (.write32 k v)) = .next s) ∧
      (∀ k, k < 1024 → ∃ t, step (s.withHostOp (.write8 (0x400 + k) b)) = .next t ∧ t = { s with buf := t.buf } ∧
        t.bufByte k = b ∧ ∀ j, j ≠ k → t.bufByte j = s.bufByte j)) ∧
    (s.status.busy = true →
      (∀ k, k % 4 = 0 → k < 0x800 →
        step (s.withHostOp (.write32 k v)) = .next { s with status := { s.status with ovr := true } }) ∧
      (∀ k, 0x400 ≤ k → k < 0x800 →
        step (s.withHostOp (.write8 k b)) = .next { s with status := { s.status with ovr := true } }))

/-- 20_memory.md rule R63: the word image of `BUF` is little-endian: a word read sees what four byte reads see, and a
word write leaves what four byte writes leave. -/
def Obligations.BufWordsAreLittleEndian : Prop :=
  ∀ (s : State) (a : Nat) (v : Word), a % 4 = 0 → a < 1024 →
    ((s.read32 (0x400 + a)).toNat = (s.bufByte a).toNat + 2 ^ 8 * (s.bufByte (a + 1)).toNat +
      2 ^ 16 * (s.bufByte (a + 2)).toNat + 2 ^ 24 * (s.bufByte (a + 3)).toNat) ∧
    (s.status.busy = false →
      ∃ t, step (s.withHostOp (.write32 (0x400 + a) v)) = .next t ∧
        Host.Core.run Sys2Proof.core 4 { s with agenda :=
          [.host (.write8 (0x400 + a) (v.extractLsb' 0 8)), .host (.write8 (0x400 + a + 1) (v.extractLsb' 8 8)),
            .host (.write8 (0x400 + a + 2) (v.extractLsb' 16 8)),
            .host (.write8 (0x400 + a + 3) (v.extractLsb' 24 8))] ++ s.agenda } = .next t)

/-- 20_memory.md rule R65, 60_exceptions.md rules R231, R242: the step refuses exactly the host operations of a form the
spec does not give, and nothing else ever stops it. -/
def Obligations.OnlyUngivenHostFormsAreRefused : Prop :=
  ∀ s : State,
    (∀ op rest, s.agenda = .host op :: rest → UngivenForm op → step s = .refused (.hostAccessForm op)) ∧
    ((∀ op rest, s.agenda = .host op :: rest → ¬ UngivenForm op) → ∃ t, step s = .next t)

/-- 60_exceptions.md rules R238, R240: FATAL is cleared only by reset and no command is performed under it; the
interrupt output. -/
def Obligations.FatalLatchHolds : Prop :=
  ∀ s t : State, s.status.fatal = true → s.status.busy = false → s.agenda.head? ≠ some .reset → step s = .next t →
    t.status.fatal = true ∧ t.status.busy = false ∧ t.result = s.result ∧ t.einfo = s.einfo ∧ t.pend = s.pend ∧
    t.flags = s.flags ∧ t.ncorr = s.ncorr ∧ SameP s t

/-- 60_exceptions.md rule R240: the interrupt output, and that it is 0 after reset. -/
def Obligations.InterruptOutput : Prop :=
  (∀ s : State, s.irq = true ↔
    (s.status.done = true ∧ s.ien.ieDone = true) ∨ (s.status.fatal = true ∧ s.ien.ieFatal = true)) ∧
  (∀ s : State, s.resetInput.irq = false) ∧
  (∀ (i : Instr) (s t : State), exec i s = .next t → s.ien.ieDone = true → t.irq = true)

/-! Reset -/

/-- 70_reset_and_hazards.md rules R260 to R262: the reset input, in any state, gives every piece of state its reset
value; a non-primitive `PRIM_POLY` leaves the core FATAL with CFG_NONPRIM, and then every write to `CMD` is dropped. -/
def Obligations.ResetInputGivesResetValues : Prop :=
  ∀ (s : State) (rest : List Turn), s.agenda = .reset :: rest →
    ∃ t, step s = .next t ∧ (∀ i, t.getR i = 0) ∧ (∀ i, t.getP i = []) ∧ t.ctrl.toWord = 0x2 ∧ t.nsym = 0 ∧
      t.einfo = 0 ∧ t.ncorr = 0 ∧ t.flags.toWord = 0 ∧ t.ien.toWord = 0 ∧ t.pend = 0 ∧
      t.status.busy = false ∧ t.status.done = false ∧ t.status.ovr = false ∧ t.cfg = s.cfg ∧ t.agenda = rest ∧
      (primitive s.cfg = true →
        t.tables = builtTables s.cfg ∧ t.status.tblRdy = true ∧ t.status.fatal = false ∧ t.result.code = 0x00) ∧
      (primitive s.cfg = false →
        t.status.tblRdy = false ∧ t.status.fatal = true ∧ t.result.code = 0x20 ∧
        ∀ w, step (t.withHostOp (.write32 0 w)) = .next { t with status := { t.status with ovr := true } })

/-- 00_scope.md rule R8: the test of the powers of x, the sixteen values that pass it, and that any other value leaves
the core FATAL after reset. -/
def Obligations.SixteenPrimitivePolynomials : Prop :=
  ∀ (c : Config) (draw : Nat),
    (primitive c = true ↔ (∀ i, 1 ≤ i → i ≤ 254 → (xtime c)^[i] 1 ≠ 1) ∧ (xtime c)^[255] 1 = 1) ∧
    (primitive c = false → (State.resetOf c draw).status.fatal = true) ∧
    (primitive c = true ↔ c.primPoly ∈ [0x11D#9, 0x12B, 0x12D, 0x14D, 0x15F, 0x163, 0x165, 0x169, 0x171, 0x187, 0x18D, 0x1A9, 0x1C3, 0x1CF,
      0x1E7, 0x1F5])

/-! Invariants -/

/-- Every step keeps the invariant: the tables are the built ones while TBL_RDY, BUSY and FATAL exclude each other
(60_exceptions.md rule R231, 10_state.md rule R28), no polynomial register holds more than 256 lanes (10_state.md rule
R23), and the memory keeps its canonical form. -/
def Obligations.StepKeepsInvariant : Prop :=
  ∀ s t : State, s.Invariant → step s = .next t → t.Invariant

/-- The invariant holds after reset, for every `PRIM_POLY`. -/
def Obligations.ResetHasInvariant : Prop :=
  State.reset.Invariant ∧ ∀ (c : Config) (draw : Nat), (State.resetOf c draw).Invariant

/-- Every step keeps the canonical form of the memory, and no step other than reset changes the configuration or the
tables (10_state.md rule R30). -/
def Obligations.StepKeepsMemoryFormAndTables : Prop :=
  ∀ s t : State, step s = .next t →
    (s.MemoryCanonical → t.MemoryCanonical) ∧ t.cfg = s.cfg ∧
    (s.agenda.head? ≠ some .reset → t.tables = s.tables)
end

