-- ==== Sys2Proof/Laws/Decode.lean ====
section
/-! SUPPORT. The fields of a packed word (30_encoding.md rule R80). -/

namespace Sys2Proof

/-- The value of a packed word. -/
theorem toNat_pack {op : Nat} (a b c d e f : Fin 16) (h : op < 256) :
    (pack op a b c d e f).toNat =
      op * 2 ^ 24 + a.val * 2 ^ 20 + b.val * 2 ^ 16 + c.val * 2 ^ 12 + d.val * 2 ^ 8 + e.val * 2 ^ 4 + f.val := by
  unfold pack
  rw [BitVec.toNat_ofNat]
  exact Nat.mod_eq_of_lt (by omega)

theorem opcodeOf_pack {op : Nat} (a b c d e f : Fin 16) (h : op < 256) : opcodeOf (pack op a b c d e f) = op := by
  unfold opcodeOf; rw [toNat_pack _ _ _ _ _ _ h]; omega

theorem fieldA_pack {op : Nat} (a b c d e f : Fin 16) (h : op < 256) : fieldAt (pack op a b c d e f) 20 = a := by
  ext; simp only [fieldAt]; rw [toNat_pack _ _ _ _ _ _ h]; omega

theorem fieldB_pack {op : Nat} (a b c d e f : Fin 16) (h : op < 256) : fieldAt (pack op a b c d e f) 16 = b := by
  ext; simp only [fieldAt]; rw [toNat_pack _ _ _ _ _ _ h]; omega

theorem fieldC_pack {op : Nat} (a b c d e f : Fin 16) (h : op < 256) : fieldAt (pack op a b c d e f) 12 = c := by
  ext; simp only [fieldAt]; rw [toNat_pack _ _ _ _ _ _ h]; omega

theorem fieldD_pack {op : Nat} (a b c d e f : Fin 16) (h : op < 256) : fieldAt (pack op a b c d e f) 8 = d := by
  ext; simp only [fieldAt]; rw [toNat_pack _ _ _ _ _ _ h]; omega

theorem fieldE_pack {op : Nat} (a b c d e f : Fin 16) (h : op < 256) : fieldAt (pack op a b c d e f) 4 = e := by
  ext; simp only [fieldAt]; rw [toNat_pack _ _ _ _ _ _ h]; omega

theorem fieldF_pack {op : Nat} (a b c d e f : Fin 16) (h : op < 256) : fieldAt (pack op a b c d e f) 0 = f := by
  ext; simp only [fieldAt]; rw [toNat_pack _ _ _ _ _ _ h]; omega

/-- Six fields and an opcode make every word. -/
theorem pack_fields (w : Word) :
    pack (opcodeOf w) (fieldAt w 20) (fieldAt w 16) (fieldAt w 12) (fieldAt w 8) (fieldAt w 4) (fieldAt w 0) = w := by
  apply BitVec.eq_of_toNat_eq
  have := w.isLt
  rw [toNat_pack _ _ _ _ _ _ (by unfold opcodeOf; omega)]
  simp only [opcodeOf, fieldAt]
  omega

end Sys2Proof
end

