-- ==== Sys2Proof/Laws/State.lean ====
section
/-! SUPPORT. One lemma per field per update of the state: what each shared update leaves in each field, true by
`rfl`, so that no later proof unfolds a record update. -/

namespace Sys2Proof.Machine

variable (s : State)

section
@[simp] theorem State.setR_cfg (i : RIx) (v : Scalar) : (s.setR i v).cfg = s.cfg := rfl
@[simp] theorem State.setR_r (i : RIx) (v : Scalar) : (s.setR i v).r = s.r.set i v := rfl
@[simp] theorem State.setR_p (i : RIx) (v : Scalar) : (s.setR i v).p = s.p := rfl
@[simp] theorem State.setR_status (i : RIx) (v : Scalar) : (s.setR i v).status = s.status := rfl
@[simp] theorem State.setR_ctrl (i : RIx) (v : Scalar) : (s.setR i v).ctrl = s.ctrl := rfl
@[simp] theorem State.setR_nsym (i : RIx) (v : Scalar) : (s.setR i v).nsym = s.nsym := rfl
@[simp] theorem State.setR_result (i : RIx) (v : Scalar) : (s.setR i v).result = s.result := rfl
@[simp] theorem State.setR_einfo (i : RIx) (v : Scalar) : (s.setR i v).einfo = s.einfo := rfl
@[simp] theorem State.setR_ncorr (i : RIx) (v : Scalar) : (s.setR i v).ncorr = s.ncorr := rfl
@[simp] theorem State.setR_flags (i : RIx) (v : Scalar) : (s.setR i v).flags = s.flags := rfl
@[simp] theorem State.setR_ien (i : RIx) (v : Scalar) : (s.setR i v).ien = s.ien := rfl
@[simp] theorem State.setR_pend (i : RIx) (v : Scalar) : (s.setR i v).pend = s.pend := rfl
@[simp] theorem State.setR_buf (i : RIx) (v : Scalar) : (s.setR i v).buf = s.buf := rfl
@[simp] theorem State.setR_tables (i : RIx) (v : Scalar) : (s.setR i v).tables = s.tables := rfl
@[simp] theorem State.setR_draw (i : RIx) (v : Scalar) : (s.setR i v).draw = s.draw := rfl
@[simp] theorem State.setR_agenda (i : RIx) (v : Scalar) : (s.setR i v).agenda = s.agenda := rfl
@[simp] theorem State.setR_reply (i : RIx) (v : Scalar) : (s.setR i v).reply = s.reply := rfl
end

section
@[simp] theorem State.setP_cfg (i : PIx) (v : Poly) : (s.setP i v).cfg = s.cfg := rfl
@[simp] theorem State.setP_r (i : PIx) (v : Poly) : (s.setP i v).r = s.r := rfl
@[simp] theorem State.setP_p (i : PIx) (v : Poly) : (s.setP i v).p = s.p.set i v := rfl
@[simp] theorem State.setP_status (i : PIx) (v : Poly) : (s.setP i v).status = s.status := rfl
@[simp] theorem State.setP_ctrl (i : PIx) (v : Poly) : (s.setP i v).ctrl = s.ctrl := rfl
@[simp] theorem State.setP_nsym (i : PIx) (v : Poly) : (s.setP i v).nsym = s.nsym := rfl
@[simp] theorem State.setP_result (i : PIx) (v : Poly) : (s.setP i v).result = s.result := rfl
@[simp] theorem State.setP_einfo (i : PIx) (v : Poly) : (s.setP i v).einfo = s.einfo := rfl
@[simp] theorem State.setP_ncorr (i : PIx) (v : Poly) : (s.setP i v).ncorr = s.ncorr := rfl
@[simp] theorem State.setP_flags (i : PIx) (v : Poly) : (s.setP i v).flags = s.flags := rfl
@[simp] theorem State.setP_ien (i : PIx) (v : Poly) : (s.setP i v).ien = s.ien := rfl
@[simp] theorem State.setP_pend (i : PIx) (v : Poly) : (s.setP i v).pend = s.pend := rfl
@[simp] theorem State.setP_buf (i : PIx) (v : Poly) : (s.setP i v).buf = s.buf := rfl
@[simp] theorem State.setP_tables (i : PIx) (v : Poly) : (s.setP i v).tables = s.tables := rfl
@[simp] theorem State.setP_draw (i : PIx) (v : Poly) : (s.setP i v).draw = s.draw := rfl
@[simp] theorem State.setP_agenda (i : PIx) (v : Poly) : (s.setP i v).agenda = s.agenda := rfl
@[simp] theorem State.setP_reply (i : PIx) (v : Poly) : (s.setP i v).reply = s.reply := rfl
end

section
@[simp] theorem State.setNcorr_cfg (k : Nat) : (s.setNcorr k).cfg = s.cfg := rfl
@[simp] theorem State.setNcorr_r (k : Nat) : (s.setNcorr k).r = s.r := rfl
@[simp] theorem State.setNcorr_p (k : Nat) : (s.setNcorr k).p = s.p := rfl
@[simp] theorem State.setNcorr_status (k : Nat) : (s.setNcorr k).status = s.status := rfl
@[simp] theorem State.setNcorr_ctrl (k : Nat) : (s.setNcorr k).ctrl = s.ctrl := rfl
@[simp] theorem State.setNcorr_nsym (k : Nat) : (s.setNcorr k).nsym = s.nsym := rfl
@[simp] theorem State.setNcorr_result (k : Nat) : (s.setNcorr k).result = s.result := rfl
@[simp] theorem State.setNcorr_einfo (k : Nat) : (s.setNcorr k).einfo = s.einfo := rfl
@[simp] theorem State.setNcorr_ncorr (k : Nat) : (s.setNcorr k).ncorr = BitVec.ofNat 8 k := rfl
@[simp] theorem State.setNcorr_flags (k : Nat) : (s.setNcorr k).flags = s.flags := rfl
@[simp] theorem State.setNcorr_ien (k : Nat) : (s.setNcorr k).ien = s.ien := rfl
@[simp] theorem State.setNcorr_pend (k : Nat) : (s.setNcorr k).pend = s.pend := rfl
@[simp] theorem State.setNcorr_buf (k : Nat) : (s.setNcorr k).buf = s.buf := rfl
@[simp] theorem State.setNcorr_tables (k : Nat) : (s.setNcorr k).tables = s.tables := rfl
@[simp] theorem State.setNcorr_draw (k : Nat) : (s.setNcorr k).draw = s.draw := rfl
@[simp] theorem State.setNcorr_agenda (k : Nat) : (s.setNcorr k).agenda = s.agenda := rfl
@[simp] theorem State.setNcorr_reply (k : Nat) : (s.setNcorr k).reply = s.reply := rfl
end

section
@[simp] theorem State.setSz_cfg (b : Bool) : (s.setSz b).cfg = s.cfg := rfl
@[simp] theorem State.setSz_r (b : Bool) : (s.setSz b).r = s.r := rfl
@[simp] theorem State.setSz_p (b : Bool) : (s.setSz b).p = s.p := rfl
@[simp] theorem State.setSz_status (b : Bool) : (s.setSz b).status = s.status := rfl
@[simp] theorem State.setSz_ctrl (b : Bool) : (s.setSz b).ctrl = s.ctrl := rfl
@[simp] theorem State.setSz_nsym (b : Bool) : (s.setSz b).nsym = s.nsym := rfl
@[simp] theorem State.setSz_result (b : Bool) : (s.setSz b).result = s.result := rfl
@[simp] theorem State.setSz_einfo (b : Bool) : (s.setSz b).einfo = s.einfo := rfl
@[simp] theorem State.setSz_ncorr (b : Bool) : (s.setSz b).ncorr = s.ncorr := rfl
@[simp] theorem State.setSz_flags (b : Bool) : (s.setSz b).flags = { s.flags with sz := b } := rfl
@[simp] theorem State.setSz_ien (b : Bool) : (s.setSz b).ien = s.ien := rfl
@[simp] theorem State.setSz_pend (b : Bool) : (s.setSz b).pend = s.pend := rfl
@[simp] theorem State.setSz_buf (b : Bool) : (s.setSz b).buf = s.buf := rfl
@[simp] theorem State.setSz_tables (b : Bool) : (s.setSz b).tables = s.tables := rfl
@[simp] theorem State.setSz_draw (b : Bool) : (s.setSz b).draw = s.draw := rfl
@[simp] theorem State.setSz_agenda (b : Bool) : (s.setSz b).agenda = s.agenda := rfl
@[simp] theorem State.setSz_reply (b : Bool) : (s.setSz b).reply = s.reply := rfl
end

section
@[simp] theorem State.setRm_cfg (b : Bool) : (s.setRm b).cfg = s.cfg := rfl
@[simp] theorem State.setRm_r (b : Bool) : (s.setRm b).r = s.r := rfl
@[simp] theorem State.setRm_p (b : Bool) : (s.setRm b).p = s.p := rfl
@[simp] theorem State.setRm_status (b : Bool) : (s.setRm b).status = s.status := rfl
@[simp] theorem State.setRm_ctrl (b : Bool) : (s.setRm b).ctrl = s.ctrl := rfl
@[simp] theorem State.setRm_nsym (b : Bool) : (s.setRm b).nsym = s.nsym := rfl
@[simp] theorem State.setRm_result (b : Bool) : (s.setRm b).result = s.result := rfl
@[simp] theorem State.setRm_einfo (b : Bool) : (s.setRm b).einfo = s.einfo := rfl
@[simp] theorem State.setRm_ncorr (b : Bool) : (s.setRm b).ncorr = s.ncorr := rfl
@[simp] theorem State.setRm_flags (b : Bool) : (s.setRm b).flags = { s.flags with rm := b } := rfl
@[simp] theorem State.setRm_ien (b : Bool) : (s.setRm b).ien = s.ien := rfl
@[simp] theorem State.setRm_pend (b : Bool) : (s.setRm b).pend = s.pend := rfl
@[simp] theorem State.setRm_buf (b : Bool) : (s.setRm b).buf = s.buf := rfl
@[simp] theorem State.setRm_tables (b : Bool) : (s.setRm b).tables = s.tables := rfl
@[simp] theorem State.setRm_draw (b : Bool) : (s.setRm b).draw = s.draw := rfl
@[simp] theorem State.setRm_agenda (b : Bool) : (s.setRm b).agenda = s.agenda := rfl
@[simp] theorem State.setRm_reply (b : Bool) : (s.setRm b).reply = s.reply := rfl
end

section
@[simp] theorem State.memWrite_cfg (a : Nat) (vs : List Byte) : (s.memWrite a vs).cfg = s.cfg := rfl
@[simp] theorem State.memWrite_r (a : Nat) (vs : List Byte) : (s.memWrite a vs).r = s.r := rfl
@[simp] theorem State.memWrite_p (a : Nat) (vs : List Byte) : (s.memWrite a vs).p = s.p := rfl
@[simp] theorem State.memWrite_status (a : Nat) (vs : List Byte) : (s.memWrite a vs).status = s.status := rfl
@[simp] theorem State.memWrite_ctrl (a : Nat) (vs : List Byte) : (s.memWrite a vs).ctrl = s.ctrl := rfl
@[simp] theorem State.memWrite_nsym (a : Nat) (vs : List Byte) : (s.memWrite a vs).nsym = s.nsym := rfl
@[simp] theorem State.memWrite_result (a : Nat) (vs : List Byte) : (s.memWrite a vs).result = s.result := rfl
@[simp] theorem State.memWrite_einfo (a : Nat) (vs : List Byte) : (s.memWrite a vs).einfo = s.einfo := rfl
@[simp] theorem State.memWrite_ncorr (a : Nat) (vs : List Byte) : (s.memWrite a vs).ncorr = s.ncorr := rfl
@[simp] theorem State.memWrite_flags (a : Nat) (vs : List Byte) : (s.memWrite a vs).flags = s.flags := rfl
@[simp] theorem State.memWrite_ien (a : Nat) (vs : List Byte) : (s.memWrite a vs).ien = s.ien := rfl
@[simp] theorem State.memWrite_pend (a : Nat) (vs : List Byte) : (s.memWrite a vs).pend = s.pend := rfl
@[simp] theorem State.memWrite_buf (a : Nat) (vs : List Byte) : (s.memWrite a vs).buf = Memory.insertAll s.buf a vs := rfl
@[simp] theorem State.memWrite_tables (a : Nat) (vs : List Byte) : (s.memWrite a vs).tables = s.tables := rfl
@[simp] theorem State.memWrite_draw (a : Nat) (vs : List Byte) : (s.memWrite a vs).draw = s.draw := rfl
@[simp] theorem State.memWrite_agenda (a : Nat) (vs : List Byte) : (s.memWrite a vs).agenda = s.agenda := rfl
@[simp] theorem State.memWrite_reply (a : Nat) (vs : List Byte) : (s.memWrite a vs).reply = s.reply := rfl
end

section
@[simp] theorem State.complete_cfg : (s.complete).cfg = s.cfg := rfl
@[simp] theorem State.complete_r : (s.complete).r = s.r := rfl
@[simp] theorem State.complete_p : (s.complete).p = s.p := rfl
@[simp] theorem State.complete_status : (s.complete).status = { s.status with busy := false, done := true } := rfl
@[simp] theorem State.complete_ctrl : (s.complete).ctrl = s.ctrl := rfl
@[simp] theorem State.complete_nsym : (s.complete).nsym = s.nsym := rfl
@[simp] theorem State.complete_result : (s.complete).result = .ok := rfl
@[simp] theorem State.complete_einfo : (s.complete).einfo = s.einfo := rfl
@[simp] theorem State.complete_ncorr : (s.complete).ncorr = s.ncorr := rfl
@[simp] theorem State.complete_flags : (s.complete).flags = s.flags := rfl
@[simp] theorem State.complete_ien : (s.complete).ien = s.ien := rfl
@[simp] theorem State.complete_pend : (s.complete).pend = s.pend := rfl
@[simp] theorem State.complete_buf : (s.complete).buf = s.buf := rfl
@[simp] theorem State.complete_tables : (s.complete).tables = s.tables := rfl
@[simp] theorem State.complete_draw : (s.complete).draw = s.draw := rfl
@[simp] theorem State.complete_agenda : (s.complete).agenda = s.agenda := rfl
@[simp] theorem State.complete_reply : (s.complete).reply = s.reply := rfl
end

section
@[simp] theorem State.raise_cfg (c : Cause) : (s.raise c).cfg = s.cfg := rfl
@[simp] theorem State.raise_r (c : Cause) : (s.raise c).r = s.r := rfl
@[simp] theorem State.raise_p (c : Cause) : (s.raise c).p = s.p := rfl
@[simp] theorem State.raise_status (c : Cause) : (s.raise c).status = { s.status with busy := false, done := true, fatal := s.status.fatal || c.kind == 2 } := rfl
@[simp] theorem State.raise_ctrl (c : Cause) : (s.raise c).ctrl = s.ctrl := rfl
@[simp] theorem State.raise_nsym (c : Cause) : (s.raise c).nsym = s.nsym := rfl
@[simp] theorem State.raise_result (c : Cause) : (s.raise c).result = c := rfl
@[simp] theorem State.raise_einfo (c : Cause) : (s.raise c).einfo = s.pend := rfl
@[simp] theorem State.raise_ncorr (c : Cause) : (s.raise c).ncorr = s.ncorr := rfl
@[simp] theorem State.raise_flags (c : Cause) : (s.raise c).flags = s.flags := rfl
@[simp] theorem State.raise_ien (c : Cause) : (s.raise c).ien = s.ien := rfl
@[simp] theorem State.raise_pend (c : Cause) : (s.raise c).pend = s.pend := rfl
@[simp] theorem State.raise_buf (c : Cause) : (s.raise c).buf = s.buf := rfl
@[simp] theorem State.raise_tables (c : Cause) : (s.raise c).tables = s.tables := rfl
@[simp] theorem State.raise_draw (c : Cause) : (s.raise c).draw = s.draw := rfl
@[simp] theorem State.raise_agenda (c : Cause) : (s.raise c).agenda = s.agenda := rfl
@[simp] theorem State.raise_reply (c : Cause) : (s.raise c).reply = s.reply := rfl
end

section
@[simp] theorem State.dropWrite_cfg : (s.dropWrite).cfg = s.cfg := rfl
@[simp] theorem State.dropWrite_r : (s.dropWrite).r = s.r := rfl
@[simp] theorem State.dropWrite_p : (s.dropWrite).p = s.p := rfl
@[simp] theorem State.dropWrite_status : (s.dropWrite).status = { s.status with ovr := true } := rfl
@[simp] theorem State.dropWrite_ctrl : (s.dropWrite).ctrl = s.ctrl := rfl
@[simp] theorem State.dropWrite_nsym : (s.dropWrite).nsym = s.nsym := rfl
@[simp] theorem State.dropWrite_result : (s.dropWrite).result = s.result := rfl
@[simp] theorem State.dropWrite_einfo : (s.dropWrite).einfo = s.einfo := rfl
@[simp] theorem State.dropWrite_ncorr : (s.dropWrite).ncorr = s.ncorr := rfl
@[simp] theorem State.dropWrite_flags : (s.dropWrite).flags = s.flags := rfl
@[simp] theorem State.dropWrite_ien : (s.dropWrite).ien = s.ien := rfl
@[simp] theorem State.dropWrite_pend : (s.dropWrite).pend = s.pend := rfl
@[simp] theorem State.dropWrite_buf : (s.dropWrite).buf = s.buf := rfl
@[simp] theorem State.dropWrite_tables : (s.dropWrite).tables = s.tables := rfl
@[simp] theorem State.dropWrite_draw : (s.dropWrite).draw = s.draw := rfl
@[simp] theorem State.dropWrite_agenda : (s.dropWrite).agenda = s.agenda := rfl
@[simp] theorem State.dropWrite_reply : (s.dropWrite).reply = s.reply := rfl
end

section
@[simp] theorem State.acceptCmd_cfg (w : Word) : (s.acceptCmd w).cfg = s.cfg := rfl
@[simp] theorem State.acceptCmd_r (w : Word) : (s.acceptCmd w).r = s.r := rfl
@[simp] theorem State.acceptCmd_p (w : Word) : (s.acceptCmd w).p = s.p := rfl
@[simp] theorem State.acceptCmd_status (w : Word) : (s.acceptCmd w).status = { s.status with busy := true, done := false } := rfl
@[simp] theorem State.acceptCmd_ctrl (w : Word) : (s.acceptCmd w).ctrl = s.ctrl := rfl
@[simp] theorem State.acceptCmd_nsym (w : Word) : (s.acceptCmd w).nsym = s.nsym := rfl
@[simp] theorem State.acceptCmd_result (w : Word) : (s.acceptCmd w).result = s.result := rfl
@[simp] theorem State.acceptCmd_einfo (w : Word) : (s.acceptCmd w).einfo = s.einfo := rfl
@[simp] theorem State.acceptCmd_ncorr (w : Word) : (s.acceptCmd w).ncorr = s.ncorr := rfl
@[simp] theorem State.acceptCmd_flags (w : Word) : (s.acceptCmd w).flags = s.flags := rfl
@[simp] theorem State.acceptCmd_ien (w : Word) : (s.acceptCmd w).ien = s.ien := rfl
@[simp] theorem State.acceptCmd_pend (w : Word) : (s.acceptCmd w).pend = w := rfl
@[simp] theorem State.acceptCmd_buf (w : Word) : (s.acceptCmd w).buf = s.buf := rfl
@[simp] theorem State.acceptCmd_tables (w : Word) : (s.acceptCmd w).tables = s.tables := rfl
@[simp] theorem State.acceptCmd_draw (w : Word) : (s.acceptCmd w).draw = s.draw := rfl
@[simp] theorem State.acceptCmd_agenda (w : Word) : (s.acceptCmd w).agenda = s.agenda := rfl
@[simp] theorem State.acceptCmd_reply (w : Word) : (s.acceptCmd w).reply = s.reply := rfl
end

section
@[simp] theorem State.clearStatus_cfg (v : Word) : (s.clearStatus v).cfg = s.cfg := rfl
@[simp] theorem State.clearStatus_r (v : Word) : (s.clearStatus v).r = s.r := rfl
@[simp] theorem State.clearStatus_p (v : Word) : (s.clearStatus v).p = s.p := rfl
@[simp] theorem State.clearStatus_status (v : Word) : (s.clearStatus v).status = { s.status with done := s.status.done && !v.getLsbD 1, ovr := s.status.ovr && !v.getLsbD 4 } := rfl
@[simp] theorem State.clearStatus_ctrl (v : Word) : (s.clearStatus v).ctrl = s.ctrl := rfl
@[simp] theorem State.clearStatus_nsym (v : Word) : (s.clearStatus v).nsym = s.nsym := rfl
@[simp] theorem State.clearStatus_result (v : Word) : (s.clearStatus v).result = s.result := rfl
@[simp] theorem State.clearStatus_einfo (v : Word) : (s.clearStatus v).einfo = s.einfo := rfl
@[simp] theorem State.clearStatus_ncorr (v : Word) : (s.clearStatus v).ncorr = s.ncorr := rfl
@[simp] theorem State.clearStatus_flags (v : Word) : (s.clearStatus v).flags = s.flags := rfl
@[simp] theorem State.clearStatus_ien (v : Word) : (s.clearStatus v).ien = s.ien := rfl
@[simp] theorem State.clearStatus_pend (v : Word) : (s.clearStatus v).pend = s.pend := rfl
@[simp] theorem State.clearStatus_buf (v : Word) : (s.clearStatus v).buf = s.buf := rfl
@[simp] theorem State.clearStatus_tables (v : Word) : (s.clearStatus v).tables = s.tables := rfl
@[simp] theorem State.clearStatus_draw (v : Word) : (s.clearStatus v).draw = s.draw := rfl
@[simp] theorem State.clearStatus_agenda (v : Word) : (s.clearStatus v).agenda = s.agenda := rfl
@[simp] theorem State.clearStatus_reply (v : Word) : (s.clearStatus v).reply = s.reply := rfl
end

section
@[simp] theorem State.resetInput_cfg : (s.resetInput).cfg = s.cfg := rfl
@[simp] theorem State.resetInput_r : (s.resetInput).r = Vector.replicate 16 0 := rfl
@[simp] theorem State.resetInput_p : (s.resetInput).p = Vector.replicate 16 [] := rfl
@[simp] theorem State.resetInput_status : (s.resetInput).status = (State.resetOf s.cfg (s.draw + 1)).status := rfl
@[simp] theorem State.resetInput_ctrl : (s.resetInput).ctrl = { alg := .euclid, recheck := true, noerror := false } := rfl
@[simp] theorem State.resetInput_nsym : (s.resetInput).nsym = 0 := rfl
@[simp] theorem State.resetInput_result : (s.resetInput).result = if (buildTables s.cfg).isSome then .ok else .cfgNonprim := rfl
@[simp] theorem State.resetInput_einfo : (s.resetInput).einfo = 0 := rfl
@[simp] theorem State.resetInput_ncorr : (s.resetInput).ncorr = 0 := rfl
@[simp] theorem State.resetInput_flags : (s.resetInput).flags = { sz := false, rm := false } := rfl
@[simp] theorem State.resetInput_ien : (s.resetInput).ien = { ieDone := false, ieFatal := false } := rfl
@[simp] theorem State.resetInput_pend : (s.resetInput).pend = 0 := rfl
@[simp] theorem State.resetInput_buf : (s.resetInput).buf = [] := rfl
@[simp] theorem State.resetInput_tables : (s.resetInput).tables = (buildTables s.cfg).getD (unbuiltTables (s.draw + 1)) := rfl
@[simp] theorem State.resetInput_draw : (s.resetInput).draw = s.draw + 1 := rfl
@[simp] theorem State.resetInput_agenda : (s.resetInput).agenda = s.agenda := rfl
@[simp] theorem State.resetInput_reply : (s.resetInput).reply = s.reply := rfl
end

/-- Reading a scalar register after a write to one. -/
theorem State.getR_setR (i j : RIx) (v : Scalar) : (s.setR i v).getR j = if i = j then v else s.getR j := by
  simp only [State.getR, State.setR]
  by_cases h : i = j
  · subst h; simp
  · have : i.val ≠ j.val := fun e => h (Fin.ext e)
    simp [h, this]

/-- Reading a polynomial register after a write to one. -/
theorem State.getP_setP (i j : PIx) (v : Poly) : (s.setP i v).getP j = if i = j then v else s.getP j := by
  simp only [State.getP, State.setP]
  by_cases h : i = j
  · subst h; simp
  · have : i.val ≠ j.val := fun e => h (Fin.ext e)
    simp [h, this]

@[simp] theorem State.getR_setR_self (i : RIx) (v : Scalar) : (s.setR i v).getR i = v := by simp [State.getR_setR]

@[simp] theorem State.getP_setP_self (i : PIx) (v : Poly) : (s.setP i v).getP i = v := by simp [State.getP_setP]

theorem State.getR_setR_ne {i j : RIx} (h : i ≠ j) (v : Scalar) : (s.setR i v).getR j = s.getR j := by
  simp [State.getR_setR, h]

theorem State.getP_setP_ne {i j : PIx} (h : i ≠ j) (v : Poly) : (s.setP i v).getP j = s.getP j := by
  simp [State.getP_setP, h]

@[simp] theorem State.getP_setR (i : RIx) (v : Scalar) (j : PIx) : (s.setR i v).getP j = s.getP j := rfl
@[simp] theorem State.bufByte_setR (i : RIx) (v : Scalar) (x : Nat) : (s.setR i v).bufByte x = s.bufByte x := rfl
@[simp] theorem State.nsymN_setR (i : RIx) (v : Scalar) : (s.setR i v).nsymN = s.nsymN := rfl
@[simp] theorem State.getR_setP (i : PIx) (v : Poly) (j : RIx) : (s.setP i v).getR j = s.getR j := rfl
@[simp] theorem State.bufByte_setP (i : PIx) (v : Poly) (x : Nat) : (s.setP i v).bufByte x = s.bufByte x := rfl
@[simp] theorem State.nsymN_setP (i : PIx) (v : Poly) : (s.setP i v).nsymN = s.nsymN := rfl
@[simp] theorem State.getR_setNcorr (k : Nat) (j : RIx) : (s.setNcorr k).getR j = s.getR j := rfl
@[simp] theorem State.getP_setNcorr (k : Nat) (j : PIx) : (s.setNcorr k).getP j = s.getP j := rfl
@[simp] theorem State.bufByte_setNcorr (k : Nat) (x : Nat) : (s.setNcorr k).bufByte x = s.bufByte x := rfl
@[simp] theorem State.nsymN_setNcorr (k : Nat) : (s.setNcorr k).nsymN = s.nsymN := rfl
@[simp] theorem State.getR_setSz (b : Bool) (j : RIx) : (s.setSz b).getR j = s.getR j := rfl
@[simp] theorem State.getP_setSz (b : Bool) (j : PIx) : (s.setSz b).getP j = s.getP j := rfl
@[simp] theorem State.bufByte_setSz (b : Bool) (x : Nat) : (s.setSz b).bufByte x = s.bufByte x := rfl
@[simp] theorem State.nsymN_setSz (b : Bool) : (s.setSz b).nsymN = s.nsymN := rfl
@[simp] theorem State.getR_setRm (b : Bool) (j : RIx) : (s.setRm b).getR j = s.getR j := rfl
@[simp] theorem State.getP_setRm (b : Bool) (j : PIx) : (s.setRm b).getP j = s.getP j := rfl
@[simp] theorem State.bufByte_setRm (b : Bool) (x : Nat) : (s.setRm b).bufByte x = s.bufByte x := rfl
@[simp] theorem State.nsymN_setRm (b : Bool) : (s.setRm b).nsymN = s.nsymN := rfl
@[simp] theorem State.getR_memWrite (a : Nat) (vs : List Byte) (j : RIx) : (s.memWrite a vs).getR j = s.getR j := rfl
@[simp] theorem State.getP_memWrite (a : Nat) (vs : List Byte) (j : PIx) : (s.memWrite a vs).getP j = s.getP j := rfl
@[simp] theorem State.nsymN_memWrite (a : Nat) (vs : List Byte) : (s.memWrite a vs).nsymN = s.nsymN := rfl
@[simp] theorem State.getR_complete (j : RIx) : (s.complete).getR j = s.getR j := rfl
@[simp] theorem State.getP_complete (j : PIx) : (s.complete).getP j = s.getP j := rfl
@[simp] theorem State.bufByte_complete (x : Nat) : (s.complete).bufByte x = s.bufByte x := rfl
@[simp] theorem State.nsymN_complete : (s.complete).nsymN = s.nsymN := rfl
@[simp] theorem State.getR_raise (c : Cause) (j : RIx) : (s.raise c).getR j = s.getR j := rfl
@[simp] theorem State.getP_raise (c : Cause) (j : PIx) : (s.raise c).getP j = s.getP j := rfl
@[simp] theorem State.bufByte_raise (c : Cause) (x : Nat) : (s.raise c).bufByte x = s.bufByte x := rfl
@[simp] theorem State.nsymN_raise (c : Cause) : (s.raise c).nsymN = s.nsymN := rfl
@[simp] theorem State.getR_dropWrite (j : RIx) : (s.dropWrite).getR j = s.getR j := rfl
@[simp] theorem State.getP_dropWrite (j : PIx) : (s.dropWrite).getP j = s.getP j := rfl
@[simp] theorem State.bufByte_dropWrite (x : Nat) : (s.dropWrite).bufByte x = s.bufByte x := rfl
@[simp] theorem State.nsymN_dropWrite : (s.dropWrite).nsymN = s.nsymN := rfl
@[simp] theorem State.getR_acceptCmd (w : Word) (j : RIx) : (s.acceptCmd w).getR j = s.getR j := rfl
@[simp] theorem State.getP_acceptCmd (w : Word) (j : PIx) : (s.acceptCmd w).getP j = s.getP j := rfl
@[simp] theorem State.bufByte_acceptCmd (w : Word) (x : Nat) : (s.acceptCmd w).bufByte x = s.bufByte x := rfl
@[simp] theorem State.nsymN_acceptCmd (w : Word) : (s.acceptCmd w).nsymN = s.nsymN := rfl
@[simp] theorem State.getR_clearStatus (v : Word) (j : RIx) : (s.clearStatus v).getR j = s.getR j := rfl
@[simp] theorem State.getP_clearStatus (v : Word) (j : PIx) : (s.clearStatus v).getP j = s.getP j := rfl
@[simp] theorem State.bufByte_clearStatus (v : Word) (x : Nat) : (s.clearStatus v).bufByte x = s.bufByte x := rfl
@[simp] theorem State.nsymN_clearStatus (v : Word) : (s.clearStatus v).nsymN = s.nsymN := rfl

/-- Two states agree when every field does. -/
theorem State.eq_of_fields {s t : State} (hcfg : s.cfg = t.cfg) (hr : ∀ i, s.getR i = t.getR i)
    (hp : ∀ i, s.getP i = t.getP i) (hstatus : s.status = t.status) (hctrl : s.ctrl = t.ctrl)
    (hnsym : s.nsym = t.nsym) (hresult : s.result = t.result) (heinfo : s.einfo = t.einfo)
    (hncorr : s.ncorr = t.ncorr) (hflags : s.flags = t.flags) (hien : s.ien = t.ien) (hpend : s.pend = t.pend)
    (hbuf : s.buf = t.buf) (htables : s.tables = t.tables) (hdraw : s.draw = t.draw)
    (hagenda : s.agenda = t.agenda) (hreply : s.reply = t.reply) : s = t := by
  cases s; cases t
  simp only [State.getR, State.getP] at *
  have hr' := Vector.ext (fun i hi => hr ⟨i, hi⟩)
  have hp' := Vector.ext (fun i hi => hp ⟨i, hi⟩)
  subst_vars
  rfl

end Sys2Proof.Machine
end

