-- ==== Sys2Proof/Laws/Perform.lean ====
section
/-! SUPPORT. The two ends of a command, said once: what `State.perform` can answer, and what the tests at the head
of a command can answer. -/

namespace Sys2Proof.Machine

@[simp] theorem State.perform_ok (s t : State) : s.perform (.ok t) = .next t.complete := rfl

@[simp] theorem State.perform_error (s : State) (c : Cause) : s.perform (.error c) = .next (s.raise c) := rfl

/-- Everything a command can answer: the completion of the state its writes give, or the failure with a cause. -/
theorem State.perform_eq_next {s u : State} {body : Except Cause State} :
    s.perform body = .next u ↔
      (∃ t, body = .ok t ∧ u = t.complete) ∨ (∃ c, body = .error c ∧ u = s.raise c) := by
  cases body <;> simp [eq_comm]

/-- A command always answers a next state (60_exceptions.md rule R231). -/
theorem State.perform_total (s : State) (body : Except Cause State) : ∃ u, s.perform body = .next u := by
  cases body <;> exact ⟨_, rfl⟩

@[simp] theorem bind_ok {α β : Type} (a : α) (f : α → Except Cause β) : ((Except.ok a : Except Cause α) >>= f) = f a :=
  rfl

@[simp] theorem bind_error {α β : Type} (c : Cause) (f : α → Except Cause β) :
    ((Except.error c : Except Cause α) >>= f) = .error c := rfl

@[simp] theorem pure_eq_ok {α : Type} (a : α) : (pure a : Except Cause α) = .ok a := rfl

/-- A sequence of two parts completes when both do. -/
theorem bind_eq_ok {α β : Type} {x : Except Cause α} {f : α → Except Cause β} {b : β} :
    (x >>= f) = .ok b ↔ ∃ a, x = .ok a ∧ f a = .ok b := by
  cases x <;> simp

/-- A sequence of two parts fails when the first does, or the second after it. -/
theorem bind_eq_error {α β : Type} {x : Except Cause α} {f : α → Except Cause β} {c : Cause} :
    (x >>= f) = .error c ↔ x = .error c ∨ ∃ a, x = .ok a ∧ f a = .error c := by
  cases x <;> simp

@[simp] theorem require_true (c : Cause) : require true c = .ok () := rfl

@[simp] theorem require_false (c : Cause) : require false c = .error c := rfl

theorem require_eq_ok {b : Bool} {c : Cause} {u : Unit} : require b c = .ok u ↔ b = true := by
  cases b <;> simp [require]

theorem require_eq_error {b : Bool} {c c' : Cause} : require b c = .error c' ↔ b = false ∧ c' = c := by
  cases b <;> simp [require, eq_comm]

/-- `fe` succeeds exactly on a value of at most 255, with its low byte. -/
theorem State.fe_eq_ok {s : State} {i : RIx} {v : Byte} :
    s.fe i = .ok v ↔ (s.getR i).toNat ≤ 255 ∧ v = (s.getR i).setWidth 8 := by
  unfold State.fe
  split_ifs with h
  · simp; omega
  · simp only [Except.ok.injEq]
    exact ⟨fun e => ⟨by omega, e.symm⟩, fun e => e.2.symm⟩

/-- `fe` fails exactly on a value above 255, with CMD_OPERAND. -/
theorem State.fe_eq_error {s : State} {i : RIx} {c : Cause} :
    s.fe i = .error c ↔ 255 < (s.getR i).toNat ∧ c = .cmdOperand := by
  unfold State.fe
  split_ifs with h
  · simp [h, eq_comm]
  · simp [h]

theorem State.fe_of_le {s : State} {i : RIx} (h : (s.getR i).toNat ≤ 255) : s.fe i = .ok ((s.getR i).setWidth 8) :=
  State.fe_eq_ok.2 ⟨h, rfl⟩

theorem State.fe_of_gt {s : State} {i : RIx} (h : 255 < (s.getR i).toNat) : s.fe i = .error .cmdOperand :=
  State.fe_eq_error.2 ⟨h, rfl⟩

end Sys2Proof.Machine
end

