-- ==== Sys2Proof/Laws/Exec.lean ====
section
/-! SUPPORT. What a command can do, said once: the causes each part of a decode can fail with, and the two ends of
`exec` (60_exceptions.md rules R231, R233, R236). -/

namespace Sys2Proof.Machine

theorem locatorBy_error {t alg syn e n c} (h : locatorBy t alg syn e n = .error c) :
   alg = .euclid ∧ c = .uncLambda0 := by
  cases alg <;> simp_all [locatorBy, euclidLocator, bind_eq_error, require_eq_error]

theorem validateLocator_error {t loc rho n c} (h : validateLocator t loc rho n = .error c) :
   c = .uncCapacity ∨ c = .uncFactor := by
  simp only [validateLocator, bind_eq_error, require_eq_error] at h
  tauto

theorem magnitudes_error {t ld o pos c} (h : magnitudes t ld o pos = .error c) : c = .cfgForneyDen := by
  induction pos with
  | nil => simp [magnitudes] at h
  | cons p pos ih =>
    simp only [magnitudes, bind_eq_error, require_eq_error, pure_eq_ok, reduceCtorEq, and_false, exists_false, or_false] at h
    rcases h with h | ⟨_, _, h⟩
    · exact h.2
    · exact ih h

/-- everything but registers, buffer, flags and count stays. -/
abbrev OnlyWrites (s t : State) : Prop :=
  t = { s with r := t.r, p := t.p, buf := t.buf, flags := t.flags, ncorr := t.ncorr }

theorem fill_error {t : Tables} {r pos : Poly} {n : Nat} {c : Cause} (h : fill t r pos n = .error c) :
    c = .cfgForneyDen := by
  simp only [fill, forney, bind_eq_error, pure_eq_ok, reduceCtorEq, and_false, exists_false, or_false] at h
  exact magnitudes_error h

theorem validateWhen_error {v : Bool} {t : Tables} {loc : Poly} {rho n : Nat} {c : Cause}
    (h : validateWhen v t loc rho n = .error c) : v = true ∧ (c = .uncCapacity ∨ c = .uncFactor) := by
  cases v
  · simp [validateWhen] at h
  · exact ⟨rfl, validateLocator_error h⟩

theorem euclidLocator_error {t : Tables} {syn e : Poly} {n : Nat} {c : Cause}
    (h : euclidLocator t syn e n = .error c) : c = .uncLambda0 := by
  simp only [euclidLocator, bind_eq_error, require_eq_error, pure_eq_ok, reduceCtorEq, and_false, exists_false, or_false] at h
  exact h.2

theorem blockOperands_error {n r e c} (h : blockOperands n r e = .error c) : c = .cmdOperand := by
  simp only [blockOperands, bind_eq_error, require_eq_error] at h
  tauto

theorem correctBlock_error {t r syn e loc n rc c} (h : correctBlock t r syn e loc n rc = .error c) :
    c = .uncCapacity ∨ c = .uncFactor ∨ c = .uncEmpty ∨ c = .uncPosrange ∨ c = .cfgForneyDen ∨ (rc = true ∧ c = .uncRecheck) := by
  simp only [correctBlock, bind_eq_error, require_eq_error, pure_eq_ok, reduceCtorEq, and_false, exists_false, or_false, forney] at h
  rcases h with h | ⟨_, _, h | ⟨_, _, h | ⟨_, _, h | ⟨_, _, h⟩⟩⟩⟩
  · have := validateLocator_error h; tauto
  · tauto
  · tauto
  · have := magnitudes_error h; tauto
  · simp at h; tauto

theorem rsDecode_error {t r n e alg rc c} (h : rsDecode t r n e alg rc = .error c) :
    c = .uncCapacity ∨ (alg = .euclid ∧ c = .uncLambda0) ∨ c = .uncFactor ∨ c = .uncEmpty ∨ c = .uncPosrange ∨
    c = .cfgForneyDen ∨ (rc = true ∧ c = .uncRecheck) := by
  simp only [rsDecode, bind_eq_error, require_eq_error] at h
  rcases h with h | ⟨_, _, h⟩
  · tauto
  · split_ifs at h
    · simp at h
    · rw [bind_eq_error] at h
      rcases h with h | ⟨_, _, h⟩
      · have := locatorBy_error h; tauto
      · have := correctBlock_error h; tauto

/-- The two ends of a command, from what its body can answer. -/
theorem perform_cases {s u : State} {body : Except Cause State} {E : Cause → Prop} (h : s.perform body = .next u)
    (ok : ∀ t, body = .ok t → OnlyWrites s t) (err : ∀ c, body = .error c → E c) :
    (∃ t, OnlyWrites s t ∧ u = t.complete) ∨ (∃ c, E c ∧ u = s.raise c) := by
  rcases State.perform_eq_next.1 h with ⟨t, ht, rfl⟩ | ⟨c, hc, rfl⟩
  · exact .inl ⟨t, ok t ht, rfl⟩
  · exact .inr ⟨c, err c hc, rfl⟩

/-- Everything `exec` can do: the command succeeds and writes registers, `BUF`, flags and `NCORR` only, or it fails with
one of its causes. -/
theorem exec_cases {i : Instr} {s u : State} (h : exec i s = .next u) :
    (∃ t, OnlyWrites s t ∧ u = t.complete) ∨ (∃ c, mayRaise s.ctrl i c ∧ u = s.raise c) := by
  cases i <;>
  simp only [exec, execLi, execLdp, execStp, execLdl, execStl, execPmov, execPlen, execPdeg, execPtrim, execGfadd,
    execGfmul, execGfinv, execGfpow, execGflog, execGfexp, execPadd, execPmul, execPscale, execPdiv, execPeval,
    execPderiv, execSynd, execEraloc, execOmega, execXgcd, execSugi, execEloc, execBmloc, execFroots, execGetpos,
    execForney, execFiller, execApply, execRsdec] at h <;>
  apply perform_cases h <;> intro c hc
  all_goals first
    | (try simp only [State.storeBytes, bind_eq_ok, require_eq_ok, pure_eq_ok] at hc
       repeat obtain ⟨_, _, hc⟩ := hc
       exact rfl)
    | (try simp only [State.loadBytes, State.storeBytes, bufRange, positionList, erasureOperand, bind_eq_error,
         bind_eq_ok, require_eq_error, require_eq_ok, State.fe_eq_error, State.fe_eq_ok, pure_eq_ok, reduceCtorEq,
         and_false, exists_false, or_false] at hc
       try simp only [mayRaise]
       first | done | tauto)
    | simp only [positionList, erasureOperand, bind_eq_error, require_eq_error, pure_eq_ok, reduceCtorEq, and_false,
        exists_false, or_false] at hc
  case eloc.err =>
    rcases hc with hc | ⟨_, _, hc | ⟨_, _, hc⟩⟩
    · simp only [mayRaise]; tauto
    · have := euclidLocator_error hc; simp only [mayRaise]; tauto
    · have := validateWhen_error hc; simp only [mayRaise]; tauto
  case bmloc.err =>
    rcases hc with hc | ⟨_, _, hc⟩
    · simp only [mayRaise]; tauto
    · have := validateWhen_error hc; simp only [mayRaise]; tauto
  case forney.err =>
    rcases hc with hc | ⟨_, _, hc⟩
    · exact .inl hc.2
    · exact .inr (magnitudes_error hc)
  case filler.err =>
    rcases hc with hc | ⟨_, _, hc | ⟨_, _, hc⟩⟩
    · exact .inl (blockOperands_error hc)
    · exact .inr (.inl hc.2)
    · exact .inr (.inr (fill_error hc))
  case rsdec.err =>
    rcases hc with hc | ⟨_, _, hc | ⟨_, _, hc⟩⟩
    · have := blockOperands_error hc; simp only [mayRaise]; tauto
    · have := rsDecode_error hc; simp only [mayRaise]; tauto
    · have h1 := hc.1
      simp at h1
      have := hc.2
      simp only [mayRaise]; tauto

/-- No command ends with the cause OK by failing, nor with CFG_NONPRIM or CMD_ILLEGAL (60_exceptions.md rule R233). -/
theorem mayRaise_ne {x : Ctrl} {i : Instr} {c : Cause} (h : mayRaise x i c) :
    c ≠ .ok ∧ c ≠ .cfgNonprim ∧ c ≠ .cmdIllegal := by
  cases i <;> simp only [mayRaise] at h <;> grind

/-- `exec` always answers a next state (60_exceptions.md rule R231). -/
theorem exec_total (i : Instr) (s : State) : ∃ u, exec i s = .next u := by
  cases i <;> first | exact State.perform_total _ _ | exact ⟨_, rfl⟩

end Sys2Proof.Machine
end

