-- ==== Sys2Proof/Laws/Field.lean ====
section
/-! SUPPORT. The tables a build leaves (10_state.md rule R33), entry by entry, and the linearity of `xtime`. -/

namespace Sys2Proof.Machine

/-- Entry `i` of the build's sequence. -/
theorem getElem_powers (c : Config) (n : Nat) (x : Byte) (i : Nat) (h : i < (powers c n x).length) :
    (powers c n x)[i] = (xtime c)^[i] x := by
  induction n generalizing x i with
  | zero => simp [powers] at h
  | succ n ih =>
    cases i with
    | zero => rfl
    | succ i => simpa [powers] using ih (xtime c x) i (by simpa [powers] using h)

/-- `EXP[n mod 255]` of the built tables. -/
theorem expAt_built (c : Config) (n : Nat) : (builtTables c).expAt n = (xtime c)^[n % 255] 1 := by
  simp only [Tables.expAt, builtTables, Vector.getElem_mk, List.getElem_toArray]
  exact getElem_powers c 255 1 _ _

/-- `LOG[a]` of the built tables. -/
theorem logAt_built (c : Config) {a : Byte} (h : a ≠ 0) : (builtTables c).logAt a = logOf c a % 256 := by
  have h1 : 0 < a.toNat := Nat.pos_of_ne_zero fun e => h (BitVec.eq_of_toNat_eq (by simpa using e))
  have h2 : BitVec.ofNat 8 (a.toNat - 1 + 1) = a := by
    rw [Nat.sub_add_cancel h1]; simp
  simp [Tables.logAt, builtTables, h2]

/-- `xtime` is linear over XOR. -/
theorem xtime_xor (c : Config) (x y : Byte) : xtime c (x ^^^ y) = xtime c x ^^^ xtime c y := by
  unfold xtime
  have e : (x ^^^ y).setWidth 9 <<< 1 = (x.setWidth 9 <<< 1) ^^^ (y.setWidth 9 <<< 1) := by
    rw [BitVec.setWidth_xor, BitVec.shiftLeft_xor_distrib]
  simp only [e, BitVec.getLsbD_xor]
  cases (x.setWidth 9 <<< 1).getLsbD 8 <;> cases (y.setWidth 9 <<< 1).getLsbD 8 <;>
    simp [BitVec.setWidth_xor] <;> try ac_rfl
  generalize x <<< 1 = a, y <<< 1 = b, BitVec.setWidth 8 c.primPoly = k
  rw [BitVec.xor_comm b k, BitVec.xor_assoc, ← BitVec.xor_assoc k k b, BitVec.xor_self, BitVec.zero_xor]

theorem gfAdd_comm (a b : Byte) : gfAdd a b = gfAdd b a := BitVec.xor_comm a b

@[simp] theorem gfAdd_self (a : Byte) : gfAdd a a = 0 := BitVec.xor_self

@[simp] theorem gfAdd_zero (a : Byte) : gfAdd a 0 = a := BitVec.xor_zero

@[simp] theorem zero_gfAdd (a : Byte) : gfAdd 0 a = a := BitVec.zero_xor

@[simp] theorem gfMul_zero (t : Tables) (a : Byte) : gfMul t a 0 = 0 := by simp [gfMul]

@[simp] theorem zero_gfMul (t : Tables) (a : Byte) : gfMul t 0 a = 0 := by simp [gfMul]

/-- The lookup reduces its index. -/
theorem expAt_mod (t : Tables) (n : Nat) : t.expAt (n % 255) = t.expAt n := by simp [Tables.expAt]

end Sys2Proof.Machine
end

