-- ==== Sys2Proof/Laws/Memory.lean ====
section
/-! SUPPORT. The buffer memory: what a read sees after a write, and that every memory operation keeps the canonical
form (`Memory.wf`). -/

namespace Sys2Proof.Machine

/-- A byte read after a write of one byte. -/
theorem Memory.lookup_insert (m : Memory) (a b : Nat) (v : Byte) :
    Memory.lookup (Memory.insert m a v) b = if b = a then some v else Memory.lookup m b := by
  induction m with
  | nil => simp [Memory.insert, Memory.lookup]
  | cons c m ih =>
    obtain ⟨c, w⟩ := c
    simp only [Memory.insert]
    by_cases h1 : a < c
    · rw [if_pos h1]; simp [Memory.lookup]
    · rw [if_neg h1]
      by_cases h2 : a = c
      · subst h2
        by_cases h3 : b = a <;> simp [Memory.lookup, h3]
      · rw [if_neg h2]
        by_cases hb : b = c
        · subst hb; simp [Memory.lookup, Ne.symm h2]
        · simp [Memory.lookup, ih, hb]

/-- A byte read after a write of a sequence. -/
theorem Memory.lookup_insertAll (m : Memory) (a b : Nat) (vs : List Byte) :
    Memory.lookup (Memory.insertAll m a vs) b =
      if a ≤ b then (vs[b - a]?).or (Memory.lookup m b) else Memory.lookup m b := by
  induction vs generalizing m a with
  | nil => simp [Memory.insertAll]
  | cons v vs ih =>
    rw [Memory.insertAll, ih, Memory.lookup_insert]
    rcases Nat.lt_trichotomy b a with h | h | h
    · simp [Nat.not_le.mpr h, show ¬ a + 1 ≤ b by omega, Nat.ne_of_lt h]
    · subst h; simp
    · rw [if_pos (show a + 1 ≤ b by omega), if_pos (Nat.le_of_lt h), if_neg (Nat.ne_of_gt h)]
      obtain ⟨k, rfl⟩ := Nat.exists_eq_add_of_lt h
      simp [show a + k + 1 - (a + 1) = k by omega, show a + k + 1 - a = k + 1 by omega]

/-- The canonical form only gets weaker when the lower bound falls. -/
theorem Memory.wfFrom_mono {m : Memory} {lo lo' : Nat} (h : Memory.wfFrom lo m = true) (hle : lo' ≤ lo) :
    Memory.wfFrom lo' m = true := by
  cases m with
  | nil => rfl
  | cons c m =>
    obtain ⟨c, w⟩ := c
    simp only [Memory.wfFrom, Bool.and_eq_true, decide_eq_true_eq] at h ⊢
    exact ⟨⟨by omega, h.1.2⟩, h.2⟩

/-- Writing a byte inside `BUF` keeps the canonical form. -/
theorem Memory.wfFrom_insert {m : Memory} {lo a : Nat} (v : Byte) (h : Memory.wfFrom lo m = true) (hlo : lo ≤ a)
    (ha : a < Config.bufSize) : Memory.wfFrom lo (Memory.insert m a v) = true := by
  induction m generalizing lo with
  | nil => simp [Memory.insert, Memory.wfFrom, hlo, ha]
  | cons c m ih =>
    obtain ⟨c, w⟩ := c
    simp only [Memory.wfFrom, Bool.and_eq_true, decide_eq_true_eq] at h
    simp only [Memory.insert]
    split_ifs with h1 h2
    · simp only [Memory.wfFrom, Bool.and_eq_true, decide_eq_true_eq]
      exact ⟨⟨hlo, ha⟩, ⟨by omega, h.1.2⟩, h.2⟩
    · subst h2
      simp only [Memory.wfFrom, Bool.and_eq_true, decide_eq_true_eq]
      exact ⟨⟨hlo, ha⟩, h.2⟩
    · simp only [Memory.wfFrom, Bool.and_eq_true, decide_eq_true_eq]
      exact ⟨h.1, ih h.2 (by omega)⟩

/-- Writing a sequence inside `BUF` keeps the canonical form. -/
theorem Memory.wf_insertAll {m : Memory} {a : Nat} {vs : List Byte} (h : Memory.wf m = true)
    (hr : a + vs.length ≤ Config.bufSize) : Memory.wf (Memory.insertAll m a vs) = true := by
  induction vs generalizing m a with
  | nil => exact h
  | cons v vs ih =>
    simp only [List.length_cons] at hr
    exact ih (Memory.wfFrom_insert v h (Nat.zero_le a) (by omega)) (by omega)

/-- The byte at `b` after a write of the sequence `vs` from `a`. -/
theorem State.bufByte_memWrite (s : State) (a b : Nat) (vs : List Byte) :
    (s.memWrite a vs).bufByte b = if a ≤ b then (vs[b - a]?).getD (s.bufByte b) else s.bufByte b := by
  unfold State.bufByte
  rw [State.memWrite_buf, Memory.lookup_insertAll]
  split_ifs with h
  · cases vs[b - a]? <;> simp
  · rfl

/-- A write leaves every other byte alone. -/
theorem State.bufByte_memWrite_outside (s : State) {a b : Nat} {vs : List Byte} (h : b < a ∨ a + vs.length ≤ b) :
    (s.memWrite a vs).bufByte b = s.bufByte b := by
  rw [State.bufByte_memWrite]
  split_ifs with h1
  · rw [List.getElem?_eq_none (by omega)]; rfl
  · rfl

/-- A write puts byte `j` of the sequence at address `a + j`. -/
theorem State.bufByte_memWrite_inside (s : State) {a j : Nat} {vs : List Byte} (h : j < vs.length) :
    (s.memWrite a vs).bufByte (a + j) = vs[j] := by
  rw [State.bufByte_memWrite, if_pos (Nat.le_add_right a j), Nat.add_sub_cancel_left, List.getElem?_eq_getElem h]
  rfl

@[simp] theorem State.length_memRead (s : State) (a n : Nat) : (s.memRead a n).length = n := by
  simp [State.memRead]

theorem State.getElem_memRead (s : State) {a n j : Nat} (h : j < (s.memRead a n).length) :
    (s.memRead a n)[j] = s.bufByte (a + j) := by
  simp [State.memRead]

/-- Reading back what was written. -/
theorem State.memRead_memWrite (s : State) (a : Nat) (vs : List Byte) :
    (s.memWrite a vs).memRead a vs.length = vs := by
  refine List.ext_getElem (by simp) fun j h1 h2 => ?_
  rw [State.getElem_memRead, State.bufByte_memWrite_inside s h2]

end Sys2Proof.Machine
end

