-- ==== Sys2Proof/Laws/PerInstr.lean ====
section
/-! SUPPORT. The family `TableRow`: the fixed bits that `opcode_table.json` gives each row stand in the word of every
command of that row. -/

namespace Sys2Proof.Laws.TableRow

/-- The fixed fields of a row: highest bit, lowest bit, value (`opcode_table.json`, the rows' "fixed"). -/
def fixed : Instr → List (Nat × Nat × Nat)
  | .li _ _ => [(19, 16, 0), (31, 24, 1)]
  | .ldp _ _ _ => [(11, 0, 0), (31, 24, 2)]
  | .stp _ _ => [(15, 0, 0), (31, 24, 3)]
  | .ldl _ _ _ => [(11, 0, 0), (31, 24, 4)]
  | .stl _ _ => [(15, 0, 0), (31, 24, 5)]
  | .pmov _ _ => [(15, 0, 0), (31, 24, 6)]
  | .plen _ _ => [(15, 0, 0), (31, 24, 7)]
  | .pdeg _ _ => [(15, 0, 0), (31, 24, 8)]
  | .ptrim _ _ => [(15, 0, 0), (31, 24, 9)]
  | .gfadd _ _ _ => [(11, 0, 0), (31, 24, 16)]
  | .gfmul _ _ _ => [(11, 0, 0), (31, 24, 17)]
  | .gfinv _ _ => [(15, 0, 0), (31, 24, 18)]
  | .gfpow _ _ _ => [(11, 0, 0), (31, 24, 19)]
  | .gflog _ _ => [(15, 0, 0), (31, 24, 20)]
  | .gfexp _ _ => [(15, 0, 0), (31, 24, 21)]
  | .padd _ _ _ => [(11, 0, 0), (31, 24, 32)]
  | .pmul _ _ _ => [(11, 0, 0), (31, 24, 33)]
  | .pscale _ _ _ => [(11, 0, 0), (31, 24, 34)]
  | .pdiv _ _ _ _ => [(7, 0, 0), (31, 24, 35)]
  | .peval _ _ _ => [(11, 0, 0), (31, 24, 36)]
  | .pderiv _ _ => [(15, 0, 0), (31, 24, 37)]
  | .synd _ _ => [(15, 0, 0), (31, 24, 48)]
  | .eraloc _ _ => [(15, 0, 0), (31, 24, 49)]
  | .omega _ _ _ => [(11, 0, 0), (31, 24, 50)]
  | .xgcd _ _ _ _ _ => [(3, 0, 0), (31, 24, 56)]
  | .sugi _ _ _ _ _ _ => [(31, 24, 57)]
  | .eloc _ _ _ _ => [(7, 0, 0), (11, 9, 0), (31, 24, 58)]
  | .bmloc _ _ _ _ => [(7, 0, 0), (11, 9, 0), (31, 24, 59)]
  | .froots _ _ => [(15, 0, 0), (31, 24, 64)]
  | .getpos _ _ => [(15, 0, 0), (31, 24, 65)]
  | .forney _ _ _ _ => [(7, 0, 0), (31, 24, 66)]
  | .filler _ _ _ => [(11, 0, 0), (31, 24, 67)]
  | .apply _ _ _ _ => [(7, 0, 0), (31, 24, 68)]
  | .rsdec _ _ _ => [(11, 0, 0), (31, 24, 80)]

/-- Every fixed field of the row has its value in the command's word. -/
def Statement (i : Instr) : Prop :=
  ∀ x ∈ fixed i, (encode i).toNat / 2 ^ x.2.1 % 2 ^ (x.1 + 1 - x.2.1) = x.2.2

theorem li (d : RIx) (imm : Scalar) : Statement (.li d imm) := by
  have := imm.isLt
  have h : (encode (.li d imm)).toNat = 1 * 2 ^ 24 + d.val * 2 ^ 20 + imm.toNat := by
    simp only [encode, packImm, BitVec.toNat_ofNat]
    omega
  intro x hx
  simp only [fixed, List.mem_cons, List.not_mem_nil, or_false] at hx
  rw [h]
  rcases hx with rfl | rfl <;> simp <;> omega

theorem ldp (d : PIx) (a b : RIx) : Statement (.ldp d a b) := by
  intro x hx
  simp only [fixed, List.mem_cons, List.not_mem_nil, or_false] at hx
  simp only [encode]
  rw [toNat_pack _ _ _ _ _ _ (by decide)]
  rcases hx with rfl | rfl <;> simp <;> omega

theorem stp (a : PIx) (b : RIx) : Statement (.stp a b) := by
  intro x hx
  simp only [fixed, List.mem_cons, List.not_mem_nil, or_false] at hx
  simp only [encode]
  rw [toNat_pack _ _ _ _ _ _ (by decide)]
  rcases hx with rfl | rfl <;> simp <;> omega

theorem ldl (d : PIx) (a b : RIx) : Statement (.ldl d a b) := by
  intro x hx
  simp only [fixed, List.mem_cons, List.not_mem_nil, or_false] at hx
  simp only [encode]
  rw [toNat_pack _ _ _ _ _ _ (by decide)]
  rcases hx with rfl | rfl <;> simp <;> omega

theorem stl (a : PIx) (b : RIx) : Statement (.stl a b) := by
  intro x hx
  simp only [fixed, List.mem_cons, List.not_mem_nil, or_false] at hx
  simp only [encode]
  rw [toNat_pack _ _ _ _ _ _ (by decide)]
  rcases hx with rfl | rfl <;> simp <;> omega

theorem pmov (d a : PIx) : Statement (.pmov d a) := by
  intro x hx
  simp only [fixed, List.mem_cons, List.not_mem_nil, or_false] at hx
  simp only [encode]
  rw [toNat_pack _ _ _ _ _ _ (by decide)]
  rcases hx with rfl | rfl <;> simp <;> omega

theorem plen (d : RIx) (a : PIx) : Statement (.plen d a) := by
  intro x hx
  simp only [fixed, List.mem_cons, List.not_mem_nil, or_false] at hx
  simp only [encode]
  rw [toNat_pack _ _ _ _ _ _ (by decide)]
  rcases hx with rfl | rfl <;> simp <;> omega

theorem pdeg (d : RIx) (a : PIx) : Statement (.pdeg d a) := by
  intro x hx
  simp only [fixed, List.mem_cons, List.not_mem_nil, or_false] at hx
  simp only [encode]
  rw [toNat_pack _ _ _ _ _ _ (by decide)]
  rcases hx with rfl | rfl <;> simp <;> omega

theorem ptrim (d a : PIx) : Statement (.ptrim d a) := by
  intro x hx
  simp only [fixed, List.mem_cons, List.not_mem_nil, or_false] at hx
  simp only [encode]
  rw [toNat_pack _ _ _ _ _ _ (by decide)]
  rcases hx with rfl | rfl <;> simp <;> omega

theorem gfadd (d a b : RIx) : Statement (.gfadd d a b) := by
  intro x hx
  simp only [fixed, List.mem_cons, List.not_mem_nil, or_false] at hx
  simp only [encode]
  rw [toNat_pack _ _ _ _ _ _ (by decide)]
  rcases hx with rfl | rfl <;> simp <;> omega

theorem gfmul (d a b : RIx) : Statement (.gfmul d a b) := by
  intro x hx
  simp only [fixed, List.mem_cons, List.not_mem_nil, or_false] at hx
  simp only [encode]
  rw [toNat_pack _ _ _ _ _ _ (by decide)]
  rcases hx with rfl | rfl <;> simp <;> omega

theorem gfinv (d a : RIx) : Statement (.gfinv d a) := by
  intro x hx
  simp only [fixed, List.mem_cons, List.not_mem_nil, or_false] at hx
  simp only [encode]
  rw [toNat_pack _ _ _ _ _ _ (by decide)]
  rcases hx with rfl | rfl <;> simp <;> omega

theorem gfpow (d a b : RIx) : Statement (.gfpow d a b) := by
  intro x hx
  simp only [fixed, List.mem_cons, List.not_mem_nil, or_false] at hx
  simp only [encode]
  rw [toNat_pack _ _ _ _ _ _ (by decide)]
  rcases hx with rfl | rfl <;> simp <;> omega

theorem gflog (d a : RIx) : Statement (.gflog d a) := by
  intro x hx
  simp only [fixed, List.mem_cons, List.not_mem_nil, or_false] at hx
  simp only [encode]
  rw [toNat_pack _ _ _ _ _ _ (by decide)]
  rcases hx with rfl | rfl <;> simp <;> omega

theorem gfexp (d a : RIx) : Statement (.gfexp d a) := by
  intro x hx
  simp only [fixed, List.mem_cons, List.not_mem_nil, or_false] at hx
  simp only [encode]
  rw [toNat_pack _ _ _ _ _ _ (by decide)]
  rcases hx with rfl | rfl <;> simp <;> omega

theorem padd (d a b : PIx) : Statement (.padd d a b) := by
  intro x hx
  simp only [fixed, List.mem_cons, List.not_mem_nil, or_false] at hx
  simp only [encode]
  rw [toNat_pack _ _ _ _ _ _ (by decide)]
  rcases hx with rfl | rfl <;> simp <;> omega

theorem pmul (d a b : PIx) : Statement (.pmul d a b) := by
  intro x hx
  simp only [fixed, List.mem_cons, List.not_mem_nil, or_false] at hx
  simp only [encode]
  rw [toNat_pack _ _ _ _ _ _ (by decide)]
  rcases hx with rfl | rfl <;> simp <;> omega

theorem pscale (d a : PIx) (b : RIx) : Statement (.pscale d a b) := by
  intro x hx
  simp only [fixed, List.mem_cons, List.not_mem_nil, or_false] at hx
  simp only [encode]
  rw [toNat_pack _ _ _ _ _ _ (by decide)]
  rcases hx with rfl | rfl <;> simp <;> omega

theorem pdiv (q r a b : PIx) : Statement (.pdiv q r a b) := by
  intro x hx
  simp only [fixed, List.mem_cons, List.not_mem_nil, or_false] at hx
  simp only [encode]
  rw [toNat_pack _ _ _ _ _ _ (by decide)]
  rcases hx with rfl | rfl <;> simp <;> omega

theorem peval (d : RIx) (a : PIx) (b : RIx) : Statement (.peval d a b) := by
  intro x hx
  simp only [fixed, List.mem_cons, List.not_mem_nil, or_false] at hx
  simp only [encode]
  rw [toNat_pack _ _ _ _ _ _ (by decide)]
  rcases hx with rfl | rfl <;> simp <;> omega

theorem pderiv (d a : PIx) : Statement (.pderiv d a) := by
  intro x hx
  simp only [fixed, List.mem_cons, List.not_mem_nil, or_false] at hx
  simp only [encode]
  rw [toNat_pack _ _ _ _ _ _ (by decide)]
  rcases hx with rfl | rfl <;> simp <;> omega

theorem synd (d a : PIx) : Statement (.synd d a) := by
  intro x hx
  simp only [fixed, List.mem_cons, List.not_mem_nil, or_false] at hx
  simp only [encode]
  rw [toNat_pack _ _ _ _ _ _ (by decide)]
  rcases hx with rfl | rfl <;> simp <;> omega

theorem eraloc (d e : PIx) : Statement (.eraloc d e) := by
  intro x hx
  simp only [fixed, List.mem_cons, List.not_mem_nil, or_false] at hx
  simp only [encode]
  rw [toNat_pack _ _ _ _ _ _ (by decide)]
  rcases hx with rfl | rfl <;> simp <;> omega

theorem omega (d x l : PIx) : Statement (.omega d x l) := by
  intro x hx
  simp only [fixed, List.mem_cons, List.not_mem_nil, or_false] at hx
  simp only [encode]
  rw [toNat_pack _ _ _ _ _ _ (by decide)]
  rcases hx with rfl | rfl <;> simp <;> omega

theorem xgcd (u v r a b : PIx) : Statement (.xgcd u v r a b) := by
  intro x hx
  simp only [fixed, List.mem_cons, List.not_mem_nil, or_false] at hx
  simp only [encode]
  rw [toNat_pack _ _ _ _ _ _ (by decide)]
  rcases hx with rfl | rfl <;> simp <;> omega

theorem sugi (u v r a b : PIx) (c : RIx) : Statement (.sugi u v r a b c) := by
  intro x hx
  simp only [fixed, List.mem_cons, List.not_mem_nil, or_false] at hx
  simp only [encode]
  rw [toNat_pack _ _ _ _ _ _ (by decide)]
  rcases hx with rfl <;> simp <;> omega

theorem eloc (d x e : PIx) (validate : Bool) : Statement (.eloc d x e validate) := by
  intro x hx
  simp only [fixed, List.mem_cons, List.not_mem_nil, or_false] at hx
  simp only [encode]
  rw [toNat_pack _ _ _ _ _ _ (by decide)]
  rcases hx with rfl | rfl | rfl <;> cases validate <;> simp [validateField] <;> omega

theorem bmloc (d x e : PIx) (validate : Bool) : Statement (.bmloc d x e validate) := by
  intro x hx
  simp only [fixed, List.mem_cons, List.not_mem_nil, or_false] at hx
  simp only [encode]
  rw [toNat_pack _ _ _ _ _ _ (by decide)]
  rcases hx with rfl | rfl | rfl <;> cases validate <;> simp [validateField] <;> omega

theorem froots (d a : PIx) : Statement (.froots d a) := by
  intro x hx
  simp only [fixed, List.mem_cons, List.not_mem_nil, or_false] at hx
  simp only [encode]
  rw [toNat_pack _ _ _ _ _ _ (by decide)]
  rcases hx with rfl | rfl <;> simp <;> omega

theorem getpos (d a : PIx) : Statement (.getpos d a) := by
  intro x hx
  simp only [fixed, List.mem_cons, List.not_mem_nil, or_false] at hx
  simp only [encode]
  rw [toNat_pack _ _ _ _ _ _ (by decide)]
  rcases hx with rfl | rfl <;> simp <;> omega

theorem forney (d l o pp : PIx) : Statement (.forney d l o pp) := by
  intro x hx
  simp only [fixed, List.mem_cons, List.not_mem_nil, or_false] at hx
  simp only [encode]
  rw [toNat_pack _ _ _ _ _ _ (by decide)]
  rcases hx with rfl | rfl <;> simp <;> omega

theorem filler (d a pp : PIx) : Statement (.filler d a pp) := by
  intro x hx
  simp only [fixed, List.mem_cons, List.not_mem_nil, or_false] at hx
  simp only [encode]
  rw [toNat_pack _ _ _ _ _ _ (by decide)]
  rcases hx with rfl | rfl <;> simp <;> omega

theorem apply (d a pp m : PIx) : Statement (.apply d a pp m) := by
  intro x hx
  simp only [fixed, List.mem_cons, List.not_mem_nil, or_false] at hx
  simp only [encode]
  rw [toNat_pack _ _ _ _ _ _ (by decide)]
  rcases hx with rfl | rfl <;> simp <;> omega

theorem rsdec (d a e : PIx) : Statement (.rsdec d a e) := by
  intro x hx
  simp only [fixed, List.mem_cons, List.not_mem_nil, or_false] at hx
  simp only [encode]
  rw [toNat_pack _ _ _ _ _ _ (by decide)]
  rcases hx with rfl | rfl <;> simp <;> omega

end Sys2Proof.Laws.TableRow
end

