-- ==== Sys2Proof/Laws/Poly.lean ====
section
/-! SUPPORT. The functions on polynomial values (00_scope.md rule R11) and the lane counts of the polynomial
functions (42_polynomial.md). -/

namespace Sys2Proof.Machine

@[simp] theorem coef_nil (i : Nat) : coef [] i = 0 := by simp [coef]

@[simp] theorem coef_cons_zero (c : Byte) (p : Poly) : coef (c :: p) 0 = c := rfl

@[simp] theorem coef_cons_succ (c : Byte) (p : Poly) (i : Nat) : coef (c :: p) (i + 1) = coef p i := rfl

theorem coef_of_lt {p : Poly} {i : Nat} (h : i < p.length) : coef p i = p[i] := by simp [coef, h]

theorem coef_of_ge {p : Poly} {i : Nat} (h : p.length ≤ i) : coef p i = 0 := by simp [coef, h]

theorem coef_map_range (f : Nat → Byte) (n i : Nat) :
    coef ((List.range n).map f) i = if i < n then f i else 0 := by
  split_ifs with h
  · rw [coef_of_lt (by simpa using h)]; simp
  · exact coef_of_ge (by simpa using h)

theorem trim_cons (c : Byte) (p : Poly) : trim (c :: p) = if trim p = [] ∧ c = 0 then [] else c :: trim p := by
  rw [trim]
  cases h : trim p with
  | nil => by_cases hc : c = 0 <;> simp [hc]
  | cons d ds => simp

/-- Trimming changes no coefficient. -/
@[simp] theorem coef_trim (p : Poly) (i : Nat) : coef (trim p) i = coef p i := by
  induction p generalizing i with
  | nil => rfl
  | cons c p ih =>
    rw [trim_cons]
    split_ifs with h
    · cases i with
      | zero => simp [h.2]
      | succ i => rw [coef_cons_succ, ← ih, h.1]; simp
    · cases i with
      | zero => rfl
      | succ i => simp [ih]

theorem length_trim_le (p : Poly) : (trim p).length ≤ p.length := by
  induction p with
  | nil => simp [trim]
  | cons c p ih => rw [trim_cons]; split_ifs <;> simp [ih]

@[simp] theorem trim_trim (p : Poly) : trim (trim p) = trim p := by
  induction p with
  | nil => rfl
  | cons c p ih =>
    rw [trim_cons]
    split_ifs with h
    · rfl
    · rw [trim_cons, ih, if_neg h]

/-- A trimmed polynomial is `[]` or has a top lane that is not 0. -/
theorem coef_top_trim {p : Poly} (h : trim p ≠ []) : coef p ((trim p).length - 1) ≠ 0 := by
  induction p with
  | nil => simp [trim] at h
  | cons c p ih =>
    by_cases hc : trim p = [] ∧ c = 0
    · rw [trim_cons, if_pos hc] at h; exact absurd rfl h
    rw [trim_cons, if_neg hc]
    by_cases hp : trim p = []
    · have : c ≠ 0 := fun e => hc ⟨hp, e⟩
      simpa [hp] using this
    · obtain ⟨d, ds, he⟩ := List.exists_cons_of_ne_nil hp
      have := ih hp
      rw [he] at this ⊢
      simpa using this

/-- `trim` answers `[]` exactly for the zero polynomial. -/
theorem trim_eq_nil {p : Poly} : trim p = [] ↔ ∀ i, coef p i = 0 := by
  constructor
  · intro h i; rw [← coef_trim, h]; simp
  · intro h; by_contra hne; exact coef_top_trim hne (h _)

/-- Two polynomials with the same coefficients trim to the same value. -/
theorem trim_congr {p q : Poly} (h : ∀ i, coef p i = coef q i) : trim p = trim q := by
  have key : ∀ {p q : Poly}, (∀ i, coef p i = coef q i) → (trim p).length ≤ (trim q).length := by
    intro p q h
    by_contra hlt
    have hp : trim p ≠ [] := by intro e; simp [e] at hlt
    have h1 := coef_top_trim hp
    rw [h, ← coef_trim, coef_of_ge (by omega)] at h1
    exact h1 rfl
  refine List.ext_getElem (Nat.le_antisymm (key h) (key fun i => (h i).symm)) fun i h1 h2 => ?_
  rw [← coef_of_lt h1, ← coef_of_lt h2, coef_trim, coef_trim, h]

@[simp] theorem deg_trim (p : Poly) : deg (trim p) = deg p := by simp [deg]

theorem deg_nonneg_or (p : Poly) : 0 ≤ deg p ∨ deg p = -1 := by unfold deg; omega

theorem deg_eq_neg_one {p : Poly} : deg p = -1 ↔ ∀ i, coef p i = 0 := by
  rw [← trim_eq_nil, deg, ← List.length_eq_zero_iff]; omega

theorem deg_lt_length (p : Poly) : deg p < p.length := by
  have := length_trim_le p
  unfold deg; omega

/-- The coefficient at the degree is not 0. -/
theorem coef_deg_ne_zero {p : Poly} (h : 0 ≤ deg p) : coef p (deg p).toNat ≠ 0 := by
  have hne : trim p ≠ [] := by
    intro e; unfold deg at h; rw [e] at h; simp at h
  have := coef_top_trim hne
  have he : (deg p).toNat = (trim p).length - 1 := by unfold deg; omega
  rwa [he]

/-- Above the degree every coefficient is 0. -/
theorem coef_eq_zero_of_deg_lt {p : Poly} {i : Nat} (h : deg p < i) : coef p i = 0 := by
  rw [← coef_trim]; exact coef_of_ge (by unfold deg at h; omega)

/-- A polynomial whose coefficients from `n` on are 0 has degree below `n`. -/
theorem deg_lt_of_coef {p : Poly} {n : Nat} (h : ∀ i, n ≤ i → coef p i = 0) : deg p < n := by
  by_contra hge
  have h0 : 0 ≤ deg p := by omega
  exact coef_deg_ne_zero h0 (h _ (by omega))

@[simp] theorem coef_polyAdd (a b : Poly) (i : Nat) : coef (polyAdd a b) i = coef a i ^^^ coef b i := by
  rw [polyAdd, coef_trim, coef_map_range]
  split_ifs with h
  · rfl
  · rw [coef_of_ge (by omega), coef_of_ge (by omega)]; rfl

theorem trim_polyAdd (a b : Poly) : trim (polyAdd a b) = polyAdd a b := by rw [polyAdd, trim_trim]

theorem length_polyAdd_le (a b : Poly) : (polyAdd a b).length ≤ max a.length b.length := by
  refine (length_trim_le _).trans ?_
  simp

theorem length_polyMul (t : Tables) (a b : Poly) :
    (polyMul t a b).length = if deg a < 0 ∨ deg b < 0 then 0 else (deg a + deg b + 1).toNat := by
  unfold polyMul; split_ifs <;> simp

theorem length_polyScale_le (t : Tables) (p : Poly) (k : Byte) : (polyScale t p k).length ≤ p.length := by
  refine (length_trim_le _).trans ?_
  simp

theorem length_polyDeriv_le (p : Poly) : (polyDeriv p).length ≤ p.length - 1 := by
  refine (length_trim_le _).trans ?_
  simp

theorem length_addShifted (t : Tables) (r b : Poly) (k : Nat) (c : Byte) : (addShifted t r b k c).length = r.length := by
  simp [addShifted]

theorem length_divLoop (t : Tables) (b : Poly) (db : Nat) (li : Byte) (k : Nat) (q r : Poly) :
    (divLoop t b db li k q r).1.length = q.length + k ∧ (divLoop t b db li k q r).2.length = r.length := by
  induction k generalizing q r with
  | zero => simp [divLoop]
  | succ k ih =>
    rw [divLoop]
    refine ⟨((ih _ _).1).trans ?_, ((ih _ _).2).trans (length_addShifted _ _ _ _ _)⟩
    simp; omega

/-- The quotient has at most deg a - deg b + 1 lanes and the remainder no more than the dividend. -/
theorem length_polyDivmod_le (t : Tables) (a b : Poly) :
    (polyDivmod t a b).1.length ≤ (deg a - deg b + 1).toNat ∧ (polyDivmod t a b).2.length ≤ (trim a).length := by
  unfold polyDivmod
  simp only [deg_trim]
  split_ifs with h
  · simp
  · simp only
    refine ⟨(length_trim_le _).trans ?_, (length_trim_le _).trans (le_of_eq (length_divLoop _ _ _ _ _ _ _).2)⟩
    rw [(length_divLoop _ _ _ _ _ _ _).1]
    simp; omega

end Sys2Proof.Machine
end

