-- ==== Sys2Proof/Laws/Step.lean ====
section
/-! SUPPORT. What one step can do, said once: the turns of the agenda, the core's turn, and the host operations
(20_memory.md rules R64, R70, 60_exceptions.md rule R231). -/

namespace Sys2Proof.Machine

/-- When the core moves next, the step is the core's turn. -/
theorem step_of_coreNext {s : State} (h : s.CoreNext) : step s = coreTurn s.takeTurn := by
  rcases s with ⟨⟩
  rename_i ag _
  rcases h with h | h
  · simp at h; subst h; rfl
  · cases ag with
    | nil => simp at h
    | cons a l => simp at h; subst h; rfl

/-- When the host moves next, the step is its operation on the state behind the turn. -/
@[simp] theorem step_withHostOp (s : State) (op : HostOp) : step (s.withHostOp op) = s.hostOp op := rfl

/-- Everything the core's turn can do. -/
theorem coreTurn_cases {s t : State} (h : coreTurn s = .next t) :
    (s.status.busy = false ∧ t = s) ∨
    (s.status.busy = true ∧ ∃ i, decode s.pend = .ok i ∧ exec i s = .next t) ∨
    (s.status.busy = true ∧ ∃ why, decode s.pend = .error why ∧ t = s.raise .cmdIllegal) := by
  unfold coreTurn coreStep at h
  split_ifs at h with hb
  · right
    split at h
    · exact .inl ⟨hb, _, ‹_›, h⟩
    · exact .inr ⟨hb, _, ‹_›, by cases h; rfl⟩
  · left
    exact ⟨by simpa using hb, by cases h; rfl⟩

/-- The core's turn always answers a next state (60_exceptions.md rule R231). -/
theorem coreTurn_total (s : State) : ∃ t, coreTurn s = .next t := by
  unfold coreTurn coreStep
  split_ifs
  · split
    · exact exec_total _ _
    · exact ⟨_, rfl⟩
  · exact ⟨_, rfl⟩

/-- Everything a host operation can do: answer a read, drop a write, or write a word or a byte. -/
theorem hostOp_cases {s t : State} {op : HostOp} (h : s.hostOp op = .next t) :
    (∃ v, t = { s with reply := some v }) ∨ t = s.dropWrite ∨
    (∃ off v, op = .write32 off v ∧ wordForm off = true ∧ s.status.busy = false ∧
      (off = 0 → s.status.fatal = false) ∧ t = s.write32 off v) ∨
    (∃ off v, op = .write8 off v ∧ byteForm off = true ∧ s.status.busy = false ∧
      t = s.memWrite (off - 0x400) [v]) := by
  cases op with
  | read32 off =>
    simp only [State.hostOp] at h
    split_ifs at h
    cases h; exact .inl ⟨_, rfl⟩
  | read8 off =>
    simp only [State.hostOp] at h
    split_ifs at h
    cases h; exact .inl ⟨_, rfl⟩
  | write32 off v =>
    simp only [State.hostOp] at h
    split_ifs at h with h1 h2
    · cases h; exact .inr (.inl rfl)
    · cases h
      simp only [Bool.or_eq_true, Bool.and_eq_true, beq_iff_eq, not_or, not_and, Bool.not_eq_true] at h2
      refine .inr (.inr (.inl ⟨off, v, rfl, h1, h2.1, fun h0 => ?_, rfl⟩))
      by_contra hf
      exact h2.2 (by simpa using hf) h0
  | write8 off v =>
    simp only [State.hostOp] at h
    split_ifs at h with h1 h2
    · cases h; exact .inr (.inl rfl)
    · cases h
      exact .inr (.inr (.inr ⟨off, v, rfl, h1, by simpa using h2, rfl⟩))

/-- Everything one step can do. -/
theorem step_cases {s t : State} (h : step s = .next t) :
    (s.CoreNext ∧ coreTurn s.takeTurn = .next t) ∨
    (∃ op rest, s.agenda = .host op :: rest ∧ s.takeTurn.hostOp op = .next t) ∨
    (∃ rest, s.agenda = .reset :: rest ∧ t = s.takeTurn.resetInput) := by
  rcases s with ⟨⟩
  rename_i ag _
  cases ag with
  | nil => exact .inl ⟨.inl rfl, h⟩
  | cons a rest =>
    cases a with
    | core => exact .inl ⟨.inr rfl, h⟩
    | host op => exact .inr (.inl ⟨op, rest, rfl, h⟩)
    | reset => exact .inr (.inr ⟨rest, rfl, by cases h; rfl⟩)

end Sys2Proof.Machine
end

