-- ==== Sys2Proof/Machine/Assembler.lean ====
section
/-! DEFINITION. The assembler syntax (30_encoding.md rules R89, R90): a line of text read as one command. The machine
never reads it; `encode` gives the command's word. -/

namespace Sys2Proof.Machine

/-- One operand as it is written (30_encoding.md rule R89). -/
inductive AsmOperand where
  | r (i : RIx)
  | p (i : PIx)
  | n (k : Int)
  deriving DecidableEq, Repr

/-- A space or a tab. -/
def isBlank (c : Char) : Bool := c == ' ' || c == '\t'

/-- A text without the blanks around it. -/
def strip (l : List Char) : List Char := ((l.dropWhile isBlank).reverse.dropWhile isBlank).reverse

/-- The parts of a text between its commas. -/
def splitCommas (l : List Char) : List (List Char) :=
  l.foldr (fun c acc =>
    if c = ',' then [] :: acc
    else
      match acc with
      | [] => [[c]]
      | x :: xs => (c :: x) :: xs) [[]]

/-- The value of one digit, in lower case. -/
def digitValue (c : Char) : Option Nat :=
  if '0' ≤ c ∧ c ≤ '9' then some (c.toNat - 48)
  else if 'a' ≤ c ∧ c ≤ 'f' then some (c.toNat - 87)
  else none

/-- A non-empty row of digits of a base. -/
def digitsValue (base : Nat) (l : List Char) : Option Nat :=
  if l = [] then none
  else l.foldl (fun acc c => do
    let v ← acc
    let d ← digitValue c
    if d < base then some (v * base + d) else none) (some 0)

/-- A decimal or `0x` hexadecimal number without a sign. -/
def naturalValue (l : List Char) : Option Nat :=
  match l with
  | '0' :: 'x' :: h => digitsValue 16 h
  | _ => digitsValue 10 l

/-- A decimal or `0x` hexadecimal integer (30_encoding.md rule R89). -/
def integerValue (l : List Char) : Option Int :=
  match l with
  | '-' :: l => (naturalValue l).map fun k => -(k : Int)
  | _ => (naturalValue l).map fun k => (k : Int)

/-- A register number 0 to 15 as it stands behind `R` or `P`. -/
def registerNumber (l : List Char) : Option (Fin 16) :=
  match l with
  | [c] => (digitsValue 10 [c]).bind fun k => if h : k < 16 then some ⟨k, h⟩ else none
  | ['1', c] => (digitsValue 10 [c]).bind fun k => if h : 10 + k < 16 then some ⟨10 + k, h⟩ else none
  | _ => none

/-- One operand, in lower case: a scalar register, a polynomial register or an integer. -/
def readOperand (l : List Char) : Option AsmOperand :=
  match l with
  | 'r' :: i => (registerNumber i).map .r
  | 'p' :: i => (registerNumber i).map .p
  | _ => (integerValue l).map .n

/-- The validate bit as it is written: 0 or 1. -/
def validateOperand (k : Int) : Option Bool := if k = 0 then some false else if k = 1 then some true else none

/-- A mnemonic in lower case with its operands in the order of rule R82, or a pseudo-instruction (30_encoding.md rules
R82, R89, R90). -/
def assembleParts (mnemonic : String) (operands : List AsmOperand) : Option Instr :=
  match mnemonic, operands with
  | "li", [.r d, .n k] => (assembleImm k).map (.li d)
  | "ldp", [.p d, .r a, .r b] => some (.ldp d a b)
  | "stp", [.p a, .r b] => some (.stp a b)
  | "ldl", [.p d, .r a, .r b] => some (.ldl d a b)
  | "stl", [.p a, .r b] => some (.stl a b)
  | "pmov", [.p d, .p a] => some (.pmov d a)
  | "plen", [.r d, .p a] => some (.plen d a)
  | "pdeg", [.r d, .p a] => some (.pdeg d a)
  | "ptrim", [.p d, .p a] => some (.ptrim d a)
  | "gfadd", [.r d, .r a, .r b] => some (.gfadd d a b)
  | "gfmul", [.r d, .r a, .r b] => some (.gfmul d a b)
  | "gfinv", [.r d, .r a] => some (.gfinv d a)
  | "gfpow", [.r d, .r a, .r b] => some (.gfpow d a b)
  | "gflog", [.r d, .r a] => some (.gflog d a)
  | "gfexp", [.r d, .r a] => some (.gfexp d a)
  | "padd", [.p d, .p a, .p b] => some (.padd d a b)
  | "pmul", [.p d, .p a, .p b] => some (.pmul d a b)
  | "pscale", [.p d, .p a, .r b] => some (.pscale d a b)
  | "pdiv", [.p q, .p r, .p a, .p b] => some (.pdiv q r a b)
  | "peval", [.r d, .p a, .r b] => some (.peval d a b)
  | "pderiv", [.p d, .p a] => some (.pderiv d a)
  | "synd", [.p d, .p a] => some (.synd d a)
  | "eraloc", [.p d, .p e] => some (.eraloc d e)
  | "omega", [.p d, .p x, .p l] => some (.omega d x l)
  | "xgcd", [.p u, .p v, .p r, .p a, .p b] => some (.xgcd u v r a b)
  | "sugi", [.p u, .p v, .p r, .p a, .p b, .r c] => some (.sugi u v r a b c)
  | "eloc", [.p d, .p x, .p e, .n k] => (validateOperand k).map (.eloc d x e)
  | "bmloc", [.p d, .p x, .p e, .n k] => (validateOperand k).map (.bmloc d x e)
  | "froots", [.p d, .p a] => some (.froots d a)
  | "getpos", [.p d, .p a] => some (.getpos d a)
  | "forney", [.p d, .p l, .p o, .p pp] => some (.forney d l o pp)
  | "filler", [.p d, .p a, .p pp] => some (.filler d a pp)
  | "apply", [.p d, .p a, .p pp, .p m] => some (.apply d a pp m)
  | "rsdec", [.p d, .p a, .p e] => some (.rsdec d a e)
  | "psub", [.p d, .p a, .p b] => some (Pseudo.expand (.psub d a b))
  | "gfsub", [.r d, .r a, .r b] => some (Pseudo.expand (.gfsub d a b))
  | "pzero", [.p d] => some (Pseudo.expand (.pzero d))
  | "eloc", [.p d, .p x, .p e] => some (Pseudo.expand (.eloc d x e))
  | "bmloc", [.p d, .p x, .p e] => some (Pseudo.expand (.bmloc d x e))
  | _, _ => none

/-- One line: a comment runs from `;` to its end, and letters may stand in either case (30_encoding.md rule R89). -/
def assembleLine (line : String) : Option Instr :=
  let text := strip ((line.toList.takeWhile (· ≠ ';')).map Char.toLower)
  let mnemonic := text.takeWhile fun c => !isBlank c
  (splitCommas (text.drop mnemonic.length)).mapM (fun o => readOperand (strip o)) >>=
    assembleParts (String.ofList mnemonic)

end Sys2Proof.Machine
end

