-- ==== Sys2Proof/Tests/Slice0.lean ====
section
/-! SUPPORT. The model's own tests, with results from the spec's tables and examples, and a witness for the hypotheses
of every obligation that has some. -/

namespace Sys2Proof.Tests
open Sys2Proof.Machine
set_option Elab.async false

/-! Well-formedness -/

/-- Equal destinations are refused (30_encoding.md rule R85 (4)). -/
theorem test_wellFormed_refuses :
    Instr.wellFormed (.pdiv 2 2 0 4) = false ∧ Instr.wellFormed (.xgcd 1 1 2 0 0) = false ∧
    Instr.wellFormed (.xgcd 1 2 1 0 0) = false ∧ Instr.wellFormed (.xgcd 2 1 1 0 0) = false ∧
    Instr.wellFormed (.sugi 1 1 2 0 0 0) = false ∧ Instr.wellFormed (.sugi 1 2 1 0 0 0) = false ∧
    Instr.wellFormed (.sugi 2 1 1 0 0 0) = false := by
  decide

/-- Sources may be destinations, and sources may be equal (30_encoding.md rule R88). -/
theorem test_wellFormed_accepts :
    Instr.wellFormed (.pdiv 2 3 2 2) = true ∧ Instr.wellFormed (.xgcd 1 2 3 1 1) = true ∧
    Instr.wellFormed (.pmul 1 1 1) = true := by
  decide

/-! Decoding -/

/-- The words of 40_data_movement.md, written from `opcode_table.json`'s encoding strings (30_encoding.md rule R82). -/
theorem test_decode_data_movement :
    decode 0b00000001000100001000000001010011 = .ok (.li 1 0x8053) ∧
    decode 0b00000010000100100011000000000000 = .ok (.ldp 1 2 3) ∧
    decode 0b00000011000100100000000000000000 = .ok (.stp 1 2) ∧
    decode 0b00000100000100100011000000000000 = .ok (.ldl 1 2 3) ∧
    decode 0b00000101000100100000000000000000 = .ok (.stl 1 2) ∧
    decode 0b00000110000100100000000000000000 = .ok (.pmov 1 2) ∧
    decode 0b00000111000100100000000000000000 = .ok (.plen 1 2) ∧
    decode 0b00001000000100100000000000000000 = .ok (.pdeg 1 2) ∧
    decode 0b00001001000100100000000000000000 = .ok (.ptrim 1 2) := by
  decide

/-- The words of 41_field.md, written from `opcode_table.json`'s encoding strings (30_encoding.md rule R82). -/
theorem test_decode_field :
    decode 0b00010000000100100011000000000000 = .ok (.gfadd 1 2 3) ∧
    decode 0b00010001000100100011000000000000 = .ok (.gfmul 1 2 3) ∧
    decode 0b00010010000100100000000000000000 = .ok (.gfinv 1 2) ∧
    decode 0b00010011000100100011000000000000 = .ok (.gfpow 1 2 3) ∧
    decode 0b00010100000100100000000000000000 = .ok (.gflog 1 2) ∧
    decode 0b00010101000100100000000000000000 = .ok (.gfexp 1 2) := by
  decide

/-- The words of 42_polynomial.md, written from `opcode_table.json`'s encoding strings (30_encoding.md rule R82). -/
theorem test_decode_polynomial :
    decode 0b00100000000100100011000000000000 = .ok (.padd 1 2 3) ∧
    decode 0b00100001000100100011000000000000 = .ok (.pmul 1 2 3) ∧
    decode 0b00100010000100100011000000000000 = .ok (.pscale 1 2 3) ∧
    decode 0b00100011000100100011010000000000 = .ok (.pdiv 1 2 3 4) ∧
    decode 0b00100100000100100011000000000000 = .ok (.peval 1 2 3) ∧
    decode 0b00100101000100100000000000000000 = .ok (.pderiv 1 2) := by
  decide

/-- The words of 43_syndrome.md, written from `opcode_table.json`'s encoding strings (30_encoding.md rule R82). -/
theorem test_decode_syndrome :
    decode 0b00110000000100100000000000000000 = .ok (.synd 1 2) ∧
    decode 0b00110001000100100000000000000000 = .ok (.eraloc 1 2) ∧
    decode 0b00110010000100100011000000000000 = .ok (.omega 1 2 3) := by
  decide

/-- The words of 44_locator.md, written from `opcode_table.json`'s encoding strings (30_encoding.md rule R82). -/
theorem test_decode_locator :
    decode 0b00111000000100100011010001010000 = .ok (.xgcd 1 2 3 4 5) ∧
    decode 0b00111001000100100011010001010110 = .ok (.sugi 1 2 3 4 5 6) ∧
    decode 0b00111010000100100011000100000000 = .ok (.eloc 1 2 3 true) ∧
    decode 0b00111011000100100011000100000000 = .ok (.bmloc 1 2 3 true) := by
  decide

/-- The words of 45_roots.md, written from `opcode_table.json`'s encoding strings (30_encoding.md rule R82). -/
theorem test_decode_roots :
    decode 0b01000000000100100000000000000000 = .ok (.froots 1 2) ∧
    decode 0b01000001000100100000000000000000 = .ok (.getpos 1 2) := by
  decide

/-- The words of 46_forney.md, written from `opcode_table.json`'s encoding strings (30_encoding.md rule R82). -/
theorem test_decode_forney :
    decode 0b01000010000100100011010000000000 = .ok (.forney 1 2 3 4) ∧
    decode 0b01000011000100100011000000000000 = .ok (.filler 1 2 3) ∧
    decode 0b01000100000100100011010000000000 = .ok (.apply 1 2 3 4) := by
  decide

/-- The words of 47_orchestrator.md, written from `opcode_table.json`'s encoding strings (30_encoding.md rule R82). -/
theorem test_decode_orchestrator :
    decode 0b01010000000100100011000000000000 = .ok (.rsdec 1 2 3) := by
  decide

/-- The illegal words of 30_encoding.md rule R91, and the tests of rule R85 in their order: GFMUL with field F = 1,
PDIV with equal destinations and then also a reserved field, ELOC with D = 2. -/
theorem test_decode_illegal :
    decode 0x00000000 = .error .opcode ∧ decode 0xFFFFFFFF = .error .opcode ∧
    decode 0x11312001 = .error .reservedField ∧ decode 0x23220400 = .error .sameDestination ∧
    decode 0x23220401 = .error .reservedField ∧ decode 0x3A321200 = .error .validateBit ∧
    decode 0x3A321201 = .error .reservedField ∧ decode 0x01110053 = .error .reservedField := by
  decide

/-- A table word reaches the decoder with the bits above `nbits` zero. -/
theorem test_decodeTableWord :
    decodeTableWord 32 0x11312000 = some (.gfmul 3 1 2) ∧ decodeTableWord 32 0x11312001 = none := by
  decide

/-- Lines of 30_encoding.md rules R89 to R91. -/
theorem test_assembler :
    (assembleLine "LI R9, -1").map encode = some 0x0190FFFF ∧
    (assembleLine "  bmloc P3, p2, P1, 1 ; comment").map encode = some 0x3B321100 ∧
    (assembleLine "PZERO P4").map encode = some 0x20444000 ∧
    (assembleLine "ELOC P7, P2, P1").map encode = some 0x3A721000 ∧
    (assembleLine "LI R1, 65536") = none := by
  decide +kernel

/-! The tables -/

/-- `EXP` as 10_state.md rule R39 prints it. -/
def expRows : List Byte :=
  [0x01, 0x02, 0x04, 0x08, 0x10, 0x20, 0x40, 0x80, 0x1D, 0x3A, 0x74, 0xE8, 0xCD, 0x87, 0x13, 0x26] ++ (
  [0x4C, 0x98, 0x2D, 0x5A, 0xB4, 0x75, 0xEA, 0xC9, 0x8F, 0x03, 0x06, 0x0C, 0x18, 0x30, 0x60, 0xC0] ++ (
  [0x9D, 0x27, 0x4E, 0x9C, 0x25, 0x4A, 0x94, 0x35, 0x6A, 0xD4, 0xB5, 0x77, 0xEE, 0xC1, 0x9F, 0x23] ++ (
  [0x46, 0x8C, 0x05, 0x0A, 0x14, 0x28, 0x50, 0xA0, 0x5D, 0xBA, 0x69, 0xD2, 0xB9, 0x6F, 0xDE, 0xA1] ++ (
  [0x5F, 0xBE, 0x61, 0xC2, 0x99, 0x2F, 0x5E, 0xBC, 0x65, 0xCA, 0x89, 0x0F, 0x1E, 0x3C, 0x78, 0xF0] ++ (
  [0xFD, 0xE7, 0xD3, 0xBB, 0x6B, 0xD6, 0xB1, 0x7F, 0xFE, 0xE1, 0xDF, 0xA3, 0x5B, 0xB6, 0x71, 0xE2] ++ (
  [0xD9, 0xAF, 0x43, 0x86, 0x11, 0x22, 0x44, 0x88, 0x0D, 0x1A, 0x34, 0x68, 0xD0, 0xBD, 0x67, 0xCE] ++ (
  [0x81, 0x1F, 0x3E, 0x7C, 0xF8, 0xED, 0xC7, 0x93, 0x3B, 0x76, 0xEC, 0xC5, 0x97, 0x33, 0x66, 0xCC] ++ (
  [0x85, 0x17, 0x2E, 0x5C, 0xB8, 0x6D, 0xDA, 0xA9, 0x4F, 0x9E, 0x21, 0x42, 0x84, 0x15, 0x2A, 0x54] ++ (
  [0xA8, 0x4D, 0x9A, 0x29, 0x52, 0xA4, 0x55, 0xAA, 0x49, 0x92, 0x39, 0x72, 0xE4, 0xD5, 0xB7, 0x73] ++ (
  [0xE6, 0xD1, 0xBF, 0x63, 0xC6, 0x91, 0x3F, 0x7E, 0xFC, 0xE5, 0xD7, 0xB3, 0x7B, 0xF6, 0xF1, 0xFF] ++ (
  [0xE3, 0xDB, 0xAB, 0x4B, 0x96, 0x31, 0x62, 0xC4, 0x95, 0x37, 0x6E, 0xDC, 0xA5, 0x57, 0xAE, 0x41] ++ (
  [0x82, 0x19, 0x32, 0x64, 0xC8, 0x8D, 0x07, 0x0E, 0x1C, 0x38, 0x70, 0xE0, 0xDD, 0xA7, 0x53, 0xA6] ++ (
  [0x51, 0xA2, 0x59, 0xB2, 0x79, 0xF2, 0xF9, 0xEF, 0xC3, 0x9B, 0x2B, 0x56, 0xAC, 0x45, 0x8A, 0x09] ++ (
  [0x12, 0x24, 0x48, 0x90, 0x3D, 0x7A, 0xF4, 0xF5, 0xF7, 0xF3, 0xFB, 0xEB, 0xCB, 0x8B, 0x0B, 0x16] ++ (
  [0x2C, 0x58, 0xB0, 0x7D, 0xFA, 0xE9, 0xCF, 0x83, 0x1B, 0x36, 0x6C, 0xD8, 0xAD, 0x47, 0x8E])))))))))))))))

/-- `LOG[1]` to `LOG[255]` as 10_state.md rule R40 prints them. -/
def logRows : List Byte :=
  [0, 1, 25, 2, 50, 26, 198, 3, 223, 51, 238, 27, 104, 199, 75] ++ (
  [4, 100, 224, 14, 52, 141, 239, 129, 28, 193, 105, 248, 200, 8, 76, 113] ++ (
  [5, 138, 101, 47, 225, 36, 15, 33, 53, 147, 142, 218, 240, 18, 130, 69] ++ (
  [29, 181, 194, 125, 106, 39, 249, 185, 201, 154, 9, 120, 77, 228, 114, 166] ++ (
  [6, 191, 139, 98, 102, 221, 48, 253, 226, 152, 37, 179, 16, 145, 34, 136] ++ (
  [54, 208, 148, 206, 143, 150, 219, 189, 241, 210, 19, 92, 131, 56, 70, 64] ++ (
  [30, 66, 182, 163, 195, 72, 126, 110, 107, 58, 40, 84, 250, 133, 186, 61] ++ (
  [202, 94, 155, 159, 10, 21, 121, 43, 78, 212, 229, 172, 115, 243, 167, 87] ++ (
  [7, 112, 192, 247, 140, 128, 99, 13, 103, 74, 222, 237, 49, 197, 254, 24] ++ (
  [227, 165, 153, 119, 38, 184, 180, 124, 17, 68, 146, 217, 35, 32, 137, 46] ++ (
  [55, 63, 209, 91, 149, 188, 207, 205, 144, 135, 151, 178, 220, 252, 190, 97] ++ (
  [242, 86, 211, 171, 20, 42, 93, 158, 132, 60, 57, 83, 71, 109, 65, 162] ++ (
  [31, 45, 67, 216, 183, 123, 164, 118, 196, 23, 73, 236, 127, 12, 111, 246] ++ (
  [108, 161, 59, 82, 41, 157, 85, 170, 251, 96, 134, 177, 187, 204, 62, 90] ++ (
  [203, 89, 95, 176, 156, 169, 160, 81, 11, 245, 22, 235, 122, 117, 44, 215] ++ (
  [79, 174, 213, 233, 230, 231, 173, 232, 116, 214, 244, 234, 168, 80, 88, 175])))))))))))))))

/-- The tables of 10_state.md rules R39 and R40. -/
def printed : Tables := ⟨⟨expRows.toArray, by decide +kernel⟩, ⟨logRows.toArray, by decide +kernel⟩⟩

theorem test_build_exp : (builtTables Config.standard).exp.toList = expRows := by decide +kernel

theorem test_build_log : (builtTables Config.standard).logs.toList = logRows := by decide +kernel

theorem printed_eq : printed = builtTables Config.standard := by
  have h1 : printed.exp = (builtTables Config.standard).exp :=
    Vector.toList_inj.1 (by rw [test_build_exp]; rfl)
  have h2 : printed.logs = (builtTables Config.standard).logs :=
    Vector.toList_inj.1 (by rw [test_build_log]; rfl)
  calc printed = ⟨printed.exp, printed.logs⟩ := rfl
    _ = builtTables Config.standard := by rw [h1, h2]

theorem standard_primitive : primitive Config.standard = true := by decide +kernel

/-- The state after reset, with the tables as the spec prints them. -/
def base : State :=
  { State.reset with
    tables := printed
    status := { busy := false, done := false, tblRdy := true, fatal := false, ovr := false }
    result := .ok }

theorem base_eq : base = State.reset := by
  unfold base State.reset State.resetOf buildTables
  rw [printed_eq, standard_primitive]
  rfl

/-- A built instance that differs from the state after reset in registers, `BUF` and options only has the built
tables. -/
theorem base_built : base.TablesBuilt := ⟨standard_primitive, printed_eq⟩

/-! One step of each command -/

/-- The state after one step that performs the word `w`: what the test says of it, of `RESULT`, BUSY and DONE. -/
def runs (s : State) (w : Nat) (holds : State → Bool) : Bool :=
  match step (s.withFetchWord 32 w) with
  | .next t => holds t && t.result == .ok && t.einfo == s.einfo && !t.status.busy && t.status.done
  | _ => false

/-- One step that performs the word `w` ends with the cause `c`: `RESULT`, `EINFO`, FATAL and the registers
(60_exceptions.md rule R236). -/
def fails (s : State) (w : Nat) (c : Cause) : Bool :=
  match step (s.withFetchWord 32 w) with
  | .next t =>
    t.result == c && t.einfo == BitVec.ofNat 32 w && !t.status.busy && t.status.done &&
      (t.status.fatal == (c.code.toNat / 16 == 2)) && t.r == s.r && t.p == s.p && t.buf == s.buf && t.flags == s.flags
  | _ => false

/-- `s` with `NSYM` = n. -/
def withNsym (n : Byte) (s : State) : State := { s with nsym := n }

/-- 40_data_movement.md rule R101, example and corner case. -/
theorem test_li :
    runs (base) 0x01100053 (fun t => t.getR 1 == 0x0053) = true ∧
    runs (base) 0x0190FFFF (fun t => t.getR 9 == 0xFFFF) = true := by
  decide +kernel

/-- Rule R102: the example, and a length above 256. -/
theorem test_ldp :
    runs ((((((base.memWrite 0 [1, 2, 3, 4])).setR 0 0x0)).setR 1 0x4)) 0x02001000 (fun t => t.getP 0 == [4, 3, 2, 1]) = true ∧
    fails ((((base.setR 0 0x0)).setR 1 0x101)) 0x02001000 .cmdOperand = true := by
  decide +kernel

/-- Rule R103: the example, and a range above 1024. -/
theorem test_stp :
    runs (((base.setP 2 [0x60, 0xB2, 0xA3, 0x75, 0x04, 0x03, 0x02, 0x01]).setR 3 0x20)) 0x03230000 (fun t => t.memRead 32 8 == [1, 2, 3, 4, 0x75, 0xA3, 0xB2, 0x60]) = true ∧
    fails (((base.setP 2 [0x01, 0x02]).setR 3 0x3ff)) 0x03230000 .cmdOperand = true := by
  decide +kernel

/-- Rule R104: the example, and a range above 1024 without wrap. -/
theorem test_ldl :
    runs ((((((base.memWrite 16 [3, 7])).setR 2 0x10)).setR 3 0x2)) 0x04123000 (fun t => t.getP 1 == [3, 7]) = true ∧
    fails ((((base.setR 2 0xffff)).setR 3 0x2)) 0x04123000 .cmdOperand = true := by
  decide +kernel

/-- Rule R105, example. -/
theorem test_stl :
    runs (((base.setP 4 [0x00, 0x07, 0x03]).setR 0 0x40)) 0x05400000 (fun t => t.memRead 64 3 == [0, 7, 3]) = true := by
  decide +kernel

/-- Rule R106: zero top lanes are copied. -/
theorem test_pmov :
    runs (base.setP 0 [0x01, 0x00]) 0x06500000 (fun t => t.getP 5 == [1, 0]) = true := by
  decide +kernel

/-- Rule R107: zero top lanes count. -/
theorem test_plen :
    runs (base.setP 0 [0x04, 0x03, 0x02, 0x01]) 0x07500000 (fun t => t.getR 5 == 4) = true ∧
    runs (base.setP 0 [0x00, 0x00]) 0x07500000 (fun t => t.getR 5 == 2) = true := by
  decide +kernel

/-- Rule R108, examples. -/
theorem test_pdeg :
    runs (base.setP 9 [0x00, 0x00, 0x00, 0x00]) 0x08590000 (fun t => t.getR 5 == 0xFFFF) = true ∧
    runs (base.setP 9 [0x05, 0x00, 0x00]) 0x08590000 (fun t => t.getR 5 == 0) = true := by
  decide +kernel

/-- Rule R109, example. -/
theorem test_ptrim :
    runs (base.setP 1 [0x07, 0x00, 0x02, 0x00, 0x00]) 0x09210000 (fun t => t.getP 2 == [7, 0, 2]) = true := by
  decide +kernel

/-- 41_field.md rule R126, examples, and an operand above 255. -/
theorem test_gfadd :
    runs (((base.setR 3 0x53).setR 4 0xca)) 0x10634000 (fun t => t.getR 6 == 0x99) = true ∧
    fails ((((base.setR 3 0x153)).setR 4 0xca)) 0x10634000 .cmdOperand = true := by
  decide +kernel

/-- Rule R127, examples. -/
theorem test_gfmul :
    runs ((((base.setR 1 0x53)).setR 2 0xca)) 0x11312000 (fun t => t.getR 3 == 0x8F) = true ∧
    runs ((((base.setR 1 0x2)).setR 2 0x8e)) 0x11312000 (fun t => t.getR 3 == 1) = true := by
  decide +kernel

/-- Rule R128: the example, the inverse of 1 and of 0. -/
theorem test_gfinv :
    runs ((base.setR 1 0x53)) 0x12410000 (fun t => t.getR 4 == 0x8C) = true ∧
    runs ((base.setR 1 0x1)) 0x12410000 (fun t => t.getR 4 == 1) = true ∧
    fails (base) 0x12410000 .cmdDomain = true := by
  decide +kernel

/-- Rule R129: the example, 5^-32768, and 0 to a negative power. -/
theorem test_gfpow :
    runs ((((base.setR 1 0x53)).setR 9 0xffff)) 0x13A19000 (fun t => t.getR 10 == 0x8C) = true ∧
    runs ((((base.setR 1 0x5)).setR 9 0x8000)) 0x13A19000 (fun t => t.getR 10 == 0xF4) = true ∧
    fails ((base.setR 9 0xffff)) 0x13A19000 .cmdDomain = true := by
  decide +kernel

/-- Rule R130: the example and the logarithm of 0. -/
theorem test_gflog :
    runs ((base.setR 1 0x53)) 0x14710000 (fun t => t.getR 7 == 206) = true ∧
    fails (base) 0x14710000 .cmdDomain = true := by
  decide +kernel

/-- Rule R131: the example and the largest index. -/
theorem test_gfexp :
    runs ((base.setR 7 0xce)) 0x15870000 (fun t => t.getR 8 == 0x53) = true ∧
    runs ((base.setR 7 0xffff)) 0x15870000 (fun t => t.getR 8 == 1) = true := by
  decide +kernel

/-- 42_polynomial.md rule R142, examples. -/
theorem test_padd :
    runs ((base.setP 0 [0x01, 0x02, 0x03]).setP 1 [0x04, 0x05]) 0x20201000 (fun t => t.getP 2 == [5, 7, 3]) = true ∧
    runs ((base.setP 0 [0x01, 0x02, 0x03]).setP 1 [0x07, 0x09, 0x03]) 0x20201000 (fun t => t.getP 2 == [6, 0x0B]) = true := by
  decide +kernel

/-- Rule R144: the example, and a product of degree 256. -/
theorem test_pmul :
    runs ((base.setP 0 [0x01, 0x02, 0x03]).setP 1 [0x04, 0x05]) 0x21201000 (fun t => t.getP 2 == [4, 0x0D, 6, 0x0F]) = true ∧
    fails ((base.setP 0 (xPow 255)).setP 1 [0, 1]) 0x21201000 .cmdOverflow = true := by
  decide +kernel

/-- Rule R146: the example and k = 0. -/
theorem test_pscale :
    runs (((base.setP 0 [0x01, 0x02, 0x03]).setR 7 0x7)) 0x22207000 (fun t => t.getP 2 == [7, 0x0E, 9]) = true ∧
    runs (base.setP 0 [0x01, 0x02, 0x03]) 0x22207000 (fun t => t.getP 2 == []) = true := by
  decide +kernel

/-- Rule R148: the example, and a zero divisor, which latches FATAL. -/
theorem test_pdiv :
    runs ((base.setP 0 [0x05, 0x00, 0x00, 0x01]).setP 1 [0x03, 0x01]) 0x23230100 (fun t => t.getP 2 == [5, 3, 1] && t.getP 3 == [0x0A]) = true ∧
    fails ((base.setP 0 [0x05, 0x00, 0x00, 0x01]).setP 1 [0x00, 0x00]) 0x23230100 .cfgDivzero = true := by
  decide +kernel

/-- Rule R150, examples at 2 and at 0. -/
theorem test_peval :
    runs (((base.setP 0 [0x01, 0x02, 0x03]).setR 5 0x2)) 0x24405000 (fun t => t.getR 4 == 9) = true ∧
    runs (base.setP 0 [0x01, 0x02, 0x03]) 0x24405000 (fun t => t.getR 4 == 1) = true := by
  decide +kernel

/-- Rule R152: only odd powers survive, unchanged. -/
theorem test_pderiv :
    runs (base.setP 0 [0x09, 0x08, 0x07, 0x06, 0x05, 0x04]) 0x25200000 (fun t => t.getP 2 == [8, 0, 6, 0, 4]) = true := by
  decide +kernel

/-- 43_syndrome.md rule R162, the two examples. -/
theorem test_synd :
    runs (withNsym 4 (base.setP 0 [0x71, 0xB2, 0xA3, 0x57, 0x04, 0x03, 0x02, 0x32])) 0x30200000 (fun t => t.getP 2 == [0, 0xA4, 0x3B, 0xEC] && !t.flags.sz) = true ∧
    runs (withNsym 4 (base.setP 8 [0x60, 0xB2, 0xA3, 0x75, 0x04, 0x03, 0x02, 0x01])) 0x30980000 (fun t => t.getP 9 == [0, 0, 0, 0] && t.flags.sz) = true := by
  decide +kernel

/-- Rule R164: the example, and the entry 255. -/
theorem test_eraloc :
    runs (base.setP 1 [0x03, 0x07]) 0x31310000 (fun t => t.getP 3 == [1, 0x88, 0x74]) = true ∧
    fails (base.setP 1 [0xFF]) 0x31310000 .cmdOperand = true := by
  decide +kernel

/-- Rule R166, examples. -/
theorem test_omega :
    runs (withNsym 4 ((base.setP 2 [0x00, 0xA4, 0x3B, 0xEC]).setP 3 [0x01, 0x89, 0xFC, 0x74])) 0x32523000 (fun t => t.getP 5 == [0, 0xA4, 0x32]) = true ∧
    runs (withNsym 4 ((base.setP 2 [0xFF, 0x7F, 0x2A, 0x77]).setP 3 [0x01, 0x42, 0x80])) 0x32523000 (fun t => t.getP 5 == [0xFF, 0xAD]) = true := by
  decide +kernel

/-- 44_locator.md rule R172, corner case and example. -/
theorem test_xgcd :
    runs ((base.setP 0 [0x06, 0x01, 0x01]).setP 1 [0x02, 0x01]) 0x38456010 (fun t => t.getP 4 == [] && t.getP 5 == [1] && t.getP 6 == [2, 1]) = true ∧
    runs ((base.setP 0 [0x00, 0x00, 0x00, 0x00, 0x01]).setP 1 [0xFF, 0x7F, 0x2A, 0x77]) 0x38456010 (fun t => t.getP 4 == [0xB2, 0x6F, 0x77] && t.getP 5 == [0xDD, 0xF8, 0xAB, 1] && t.getP 6 == [0x97]) = true := by
  decide +kernel

/-- Rule R174: the example, and a bound below -1. -/
theorem test_sugi :
    runs ((((base.setP 0 [0x00, 0x00, 0x00, 0x00, 0x01]).setP 1 [0xFF, 0x7F, 0x2A, 0x77]).setR 2 0x1)) 0x39456012 (fun t => t.getP 4 == [0x7E, 0x28] && t.getP 5 == [8, 0x2A, 0x74] && t.getP 6 == [0xAB, 1]) = true ∧
    fails ((((base.setP 0 [0x01]).setP 1 [0x01]).setR 2 0xfffe)) 0x39456012 .cmdOperand = true := by
  decide +kernel

/-- Rule R176, examples without validation: no erasures, and two erasures. -/
theorem test_eloc :
    runs (withNsym 4 (base.setP 2 [0xFF, 0x7F, 0x2A, 0x77])) 0x3A721000 (fun t => t.getP 7 == [1, 0x42, 0x80]) = true ∧
    runs (withNsym 4 ((base.setP 2 [0x00, 0xA4, 0x3B, 0xEC]).setP 1 [0x03, 0x07])) 0x3A721000 (fun t => t.getP 7 == [1, 0x89, 0xFC, 0x74]) = true := by
  decide +kernel

/-- Rule R179, the same examples. -/
theorem test_bmloc :
    runs (withNsym 4 (base.setP 2 [0xFF, 0x7F, 0x2A, 0x77])) 0x3B321000 (fun t => t.getP 3 == [1, 0x42, 0x80]) = true ∧
    runs (withNsym 4 ((base.setP 2 [0x00, 0xA4, 0x3B, 0xEC]).setP 1 [0x03, 0x07])) 0x3B321000 (fun t => t.getP 3 == [1, 0x89, 0xFC, 0x74]) = true := by
  decide +kernel

/-- 46_forney.md rule R202: the example, and a constant locator, which latches FATAL. -/
theorem test_forney :
    runs (((base.setP 3 [0x01, 0x89, 0xFC, 0x74]).setP 5 [0x00, 0xA4, 0x32]).setP 4 [0x00, 0x07, 0x03]) 0x42635400 (fun t => t.getP 6 == [0x11, 0x33, 0x22]) = true ∧
    fails ((base.setP 3 [0x01]).setP 4 [0x00]) 0x42635400 .cfgForneyDen = true := by
  decide +kernel

/-- Rule R204: the example, memory order 01 40 03 04 75 3A B2 60, and more positions than check symbols. -/
theorem test_filler :
    runs (withNsym 4 ((base.setP 0 [0x60, 0xB2, 0x3A, 0x75, 0x04, 0x03, 0x40, 0x01]).setP 1 [0x02, 0x05, 0x06])) 0x43801000 (fun t => t.getP 8 == [0x60, 0xB2, 0xA3, 0x75, 4, 3, 2, 1] && t.ncorr == 3 && !t.flags.sz) = true ∧
    fails (withNsym 1 ((base.setP 0 [0x01, 0x02]).setP 1 [0x00, 0x01])) 0x43801000 .uncCapacity = true := by
  decide +kernel

/-- Rule R206: the example, and lists of different lengths. -/
theorem test_apply :
    runs (((base.setP 0 [0x71, 0xB2, 0xA3, 0x57, 0x04, 0x03, 0x02, 0x32]).setP 4 [0x00, 0x07, 0x03]).setP 6 [0x11, 0x33, 0x22]) 0x44804600 (fun t => t.getP 8 == [0x60, 0xB2, 0xA3, 0x75, 4, 3, 2, 1]) = true ∧
    fails (((base.setP 0 [0x01]).setP 4 [0x00]).setP 6 []) 0x44804600 .cmdOperand = true := by
  decide +kernel

/-! Root scans: each is evaluated once and cited below -/

/-- 45_roots.md rule R192: the locator [01, 20] has the one root 6C. -/
theorem scan_locator : scanRoots printed [1, 0x20] = [0x6C] := by decide +kernel

/-- The locator 1 + 2x of position 1 has the root 8E. -/
theorem scan_error : scanRoots printed [1, 2] = [0x8E] := by decide +kernel

/-- (1 + x)^2 has one root. -/
theorem scan_double : scanRoots printed [1, 0, 1] = [1] := by decide +kernel

theorem test_findRoots_locator : findRoots printed [1, 0x20] = ([0x6C], true) := by
  unfold findRoots; rw [scan_locator]; decide +kernel

theorem findRoots_error : findRoots printed [1, 2] = ([0x8E], true) := by
  unfold findRoots; rw [scan_error]; decide +kernel

theorem of_toOption {α : Type} {x : Except Cause α} {a : α} (h : x.toOption = some a) : x = .ok a := by
  cases x <;> simp_all [Except.toOption]

/-- Rule R192: the polynomial x has the root 0. -/
theorem test_findRoots_x : findRoots printed [0, 1] = ([0], true) := by decide +kernel

/-- Rule R192: a root list with RM = 1, and the zero polynomial, whose gate fails. -/
theorem test_froots :
    exec (.froots 4 3) (base.setP 3 [1, 0x20]) = .next (((base.setP 3 [1, 0x20]).setP 4 [0x6C]).setRm true).complete ∧
    runs base 0x40430000 (fun t => t.getP 4 == [] && !t.flags.rm) = true := by
  refine ⟨?_, by decide +kernel⟩
  simp only [exec, execFroots]
  rw [show findRoots (base.setP 3 [1, 0x20]).tables ((base.setP 3 [1, 0x20]).getP 3) = ([0x6C], true) from
    test_findRoots_locator]
  rfl

/-- Rule R194: the root 6C has position 05, and the root 0 has none. -/
theorem test_getpos :
    exec (.getpos 4 3) (base.setP 3 [1, 0x20]) = .next (((base.setP 3 [1, 0x20]).setP 4 [5]).setRm true).complete ∧
    exec (.getpos 4 3) (base.setP 3 [0, 1]) = .next ((base.setP 3 [0, 1]).raise .cmdDomain) := by
  constructor
  · simp only [exec, execGetpos]
    rw [show findRoots (base.setP 3 [1, 0x20]).tables ((base.setP 3 [1, 0x20]).getP 3) = ([0x6C], true) from
      test_findRoots_locator]
    have h : positionsOf printed [0x6C] = [5] := by decide +kernel
    exact congrArg (fun q : Poly => Host.Outcome.next (((base.setP 3 [1, 0x20]).setP 4 q).setRm true).complete) h
  · simp only [exec, execGetpos]
    rw [show findRoots (base.setP 3 [0, 1]).tables ((base.setP 3 [0, 1]).getP 3) = ([0], true) from test_findRoots_x]
    rfl

/-- 47_orchestrator.md rule R211, steps 3 to 5, for one error at position 1. -/
theorem test_correctBlock :
    correctBlock printed [0, 5] (syndrome printed [0, 5] 2) [] [1, 2] 2 true = .ok ([0, 0], 1) := by
  apply of_toOption
  unfold correctBlock validateLocator
  rw [findRoots_error]
  decide +kernel

/-- 47_orchestrator.md rule R213: the block [00, 05] is one error away from the codeword [00, 00] of two check
symbols. -/
theorem test_rsDecode : rsDecode printed [0, 5] 2 [] .euclid true = .ok ([0, 0], 1) := by
  have hl : locatorBy printed .euclid (syndrome printed [0, 5] 2) [] 2 = .ok [1, 2] :=
    of_toOption (by decide +kernel)
  have hz : allZero (syndrome printed [0, 5] 2) = false := by decide +kernel
  have hc := test_correctBlock
  simp only [rsDecode, hz, hl, bind, Except.bind, hc]
  rfl

/-- Rule R212: the corrected block with `NCORR` = 1 and SZ = 0, and STRICT_CORRECTED in strict mode. -/
theorem test_rsdec :
    exec (.rsdec 2 0 1) (withNsym 2 (base.setP 0 [0, 5])) =
      .next ((((withNsym 2 (base.setP 0 [0, 5])).setP 2 [0, 0]).setNcorr 1).setSz false).complete ∧
    exec (.rsdec 2 0 1) { withNsym 2 (base.setP 0 [0, 5]) with ctrl := Ctrl.ofWord 0x6 } =
      .next (({ withNsym 2 (base.setP 0 [0, 5]) with ctrl := Ctrl.ofWord 0x6 } : State).raise .strictCorrected) := by
  constructor
  · simp only [exec, execRsdec]
    rw [show blockOperands (withNsym 2 (base.setP 0 [0, 5])).nsymN ((withNsym 2 (base.setP 0 [0, 5])).getP 0)
      ((withNsym 2 (base.setP 0 [0, 5])).getP 1) = .ok () from rfl,
      show rsDecode (withNsym 2 (base.setP 0 [0, 5])).tables ((withNsym 2 (base.setP 0 [0, 5])).getP 0)
      (withNsym 2 (base.setP 0 [0, 5])).nsymN ((withNsym 2 (base.setP 0 [0, 5])).getP 1)
      (withNsym 2 (base.setP 0 [0, 5])).ctrl.alg (withNsym 2 (base.setP 0 [0, 5])).ctrl.recheck = .ok ([0, 0], 1)
      from test_rsDecode]
    rfl
  · generalize hs : ({ withNsym 2 (base.setP 0 [0, 5]) with ctrl := Ctrl.ofWord 0x6 } : State) = s
    have h1 : blockOperands s.nsymN (s.getP 0) (s.getP 1) = .ok () := by subst hs; rfl
    have h2 : rsDecode s.tables (s.getP 0) s.nsymN (s.getP 1) s.ctrl.alg s.ctrl.recheck = .ok ([0, 0], 1) := by
      subst hs; exact test_rsDecode
    have h3 : s.ctrl.noerror = true := by subst hs; rfl
    simp only [exec, execRsdec, h1, h2]
    simp [h3]

/-- 70_reset_and_hazards.md rule R262: 0x11B is irreducible with cycle length 51 and is rejected; every write to `CMD`
is dropped (60_exceptions.md rule R238). -/
theorem test_nonprimitive :
    (State.resetOf ⟨0x1B⟩ 0).status.fatal = true ∧ (State.resetOf ⟨0x1B⟩ 0).status.tblRdy = false ∧
    (State.resetOf ⟨0x1B⟩ 0).result.code = 0x20 := by
  decide +kernel

/-- 10_state.md rules R27, R28, R44, 20_memory.md rule R64: host writes, dropped writes and write 1 to clear. -/
theorem test_host :
    (base.write32 0x040 0x12345678).getR 0 = 0x5678 ∧ (base.write32 0x008 0xFFFFFFFF).ctrl.toWord = 7 ∧
    (base.dropWrite.write32 0x004 0x10).status.ovr = false ∧ (base.dropWrite.write32 0x004 0x02).status.ovr = true ∧
    base.read32 0x020 = 0x11D ∧ base.read32 0x008 = 2 ∧ base.read32 0x004 = 4 ∧
    (base.write32 0x400 0x44332211).memRead 0 4 = [0x11, 0x22, 0x33, 0x44] := by
  decide +kernel

/-- The memory after reset has the canonical form, and writes keep it whatever their order. -/
theorem test_memory_form :
    Memory.wf State.reset.buf = true ∧
    ((base.memWrite 9 [1]).memWrite 3 [2]).buf = ((base.memWrite 3 [2]).memWrite 9 [1]).buf := by
  decide +kernel

/-! Witnesses: states and operands that meet the hypotheses of the obligations, clause by clause -/

/-- `base` with the word `w` pending. -/
def pending (w : Word) : State := base.acceptCmd w

theorem witness_EncodeOfDecode : decode (0x23230400 : Word) = .ok (.pdiv 2 3 0 4) := by decide

theorem witness_DecodeOfEncode : Instr.wellFormed (.sugi 1 2 3 4 5 6) = true := by decide

/-- The opcodes of 30_encoding.md rule R82. -/
def assigned : List Nat :=
  [0x01, 0x02, 0x03, 0x04, 0x05, 0x06, 0x07, 0x08, 0x09, 0x10, 0x11, 0x12, 0x13, 0x14, 0x15, 0x20, 0x21, 0x22, 0x23, 0x24,
    0x25, 0x30, 0x31, 0x32, 0x38, 0x39, 0x3A, 0x3B, 0x40, 0x41, 0x42, 0x43, 0x44, 0x50]

/-- Unassigned opcodes at both ends and beside assigned ones, and a pending word that fails each test of rule R85. -/
theorem witness_IllegalWordsEndWithCmdIllegal :
    (opcodeOf 0 ∉ assigned ∧ opcodeOf 0x0A000000 ∉ assigned ∧ opcodeOf 0x51000000 ∉ assigned ∧
      opcodeOf 0xFF000000 ∉ assigned) ∧
    (pending 0xFFFFFFFF).CoreNext ∧ (pending 0xFFFFFFFF).status.busy = true ∧
    decode (pending 0xFFFFFFFF).pend = .error .opcode ∧ decode (pending 0x11312001).pend = .error .reservedField ∧
    decode (pending 0x3A321200).pend = .error .validateBit ∧
    decode (pending 0x23220400).pend = .error .sameDestination := by
  decide

theorem witness_StepPerformsPendingCommand :
    (pending 0x01100053).CoreNext ∧ (pending 0x01100053).status.busy = true ∧
    decode (pending 0x01100053).pend = .ok (.li 1 0x53) := by
  decide

theorem witness_CoreStepIsTotal :
    ((pending 0).CoreNext ∧ (pending 0).status.busy = true) ∧ (base.CoreNext ∧ base.status.busy = false) := by
  decide

theorem witness_FailureChangesNothingElse :
    (∃ t, exec (.gfinv 0 1) base = .next t ∧ t.result ≠ .ok ∧ t.status.fatal = false) ∧
    (∃ t, exec (.pdiv 0 1 2 3) base = .next t ∧ t.result ≠ .ok ∧ t.status.fatal = true) :=
  ⟨⟨_, rfl, by decide, by decide⟩, ⟨_, rfl, by decide, by decide⟩⟩

theorem witness_SuccessEndsCommand : ∃ t, exec (.li 0 1) base = .next t ∧ t.result = .ok := ⟨_, rfl, rfl⟩

theorem witness_CausesOfEachCommand : ∃ t, exec (.gflog 0 1) base = .next t ∧ t.result = .cmdDomain := ⟨_, rfl, rfl⟩

theorem witness_LoadsReadBuffer :
    (((base.setR 0 768).setR 1 256).getR 1).toNat ≤ 256 ∧
    (((base.setR 0 768).setR 1 256).getR 0).toNat + (((base.setR 0 768).setR 1 256).getR 1).toNat ≤ 1024 ∧
    ((base.setR 1 257).getR 1).toNat > 256 ∧
    (((base.setR 0 769).setR 1 256).getR 0).toNat + (((base.setR 0 769).setR 1 256).getR 1).toNat > 1024 := by
  decide +kernel

theorem witness_StoresWriteBuffer :
    (((base.setR 0 1023).setP 0 [7]).getR 0).toNat + (((base.setR 0 1023).setP 0 [7]).getP 0).length ≤ 1024 ∧
    (((base.setR 0 1024).setP 0 [7]).getR 0).toNat + (((base.setR 0 1024).setP 0 [7]).getP 0).length > 1024 ∧
    ((((base.setR 0 1023).setR 1 1).setP 0 [7]).getP 0).length ≤ 256 ∧
    ((((base.setR 0 1023).setR 1 1).setP 0 [7]).getR 1).toNat =
      ((((base.setR 0 1023).setR 1 1).setP 0 [7]).getP 0).length := by
  decide +kernel

theorem witness_MovesAndMeasures :
    (∀ k, coef ((base.setP 0 [0, 0]).getP 0) k = 0) ∧
    (coef ((base.setP 0 [5, 0]).getP 0) 0 ≠ 0 ∧ ∀ i, 0 < i → coef ((base.setP 0 [5, 0]).getP 0) i = 0) := by
  have h1 : (base.setP 0 [0, 0]).getP 0 = [0, 0] := rfl
  have h2 : (base.setP 0 [5, 0]).getP 0 = [5, 0] := rfl
  rw [h1, h2]
  refine ⟨fun k => ?_, by decide, fun i hi => ?_⟩
  · match k with
    | 0 => rfl
    | 1 => rfl
    | k + 2 => rfl
  · match i, hi with
    | 1, _ => rfl
    | i + 2, _ => rfl

/-- For ExpAndLogAreInverse, TableArithmeticIsAField, TableProductIsResidueProduct, FieldPowerAndAntilog and
ResultsIgnoreZeroTopLanes: the default polynomial, and the last of the sixteen. -/
theorem witness_primitive : primitive Config.standard = true ∧ primitive ⟨0xF5⟩ = true := by decide +kernel

theorem witness_FieldAddAndMultiply :
    (((base.setR 1 255).setR 2 255).getR 1).toNat ≤ 255 ∧ (((base.setR 1 255).setR 2 255).getR 2).toNat ≤ 255 ∧
    ((base.setR 1 256).getR 1).toNat > 255 := by
  decide +kernel

theorem witness_FieldInverseAndLogarithm :
    (((base.setR 1 255).getR 1).toNat ≤ 255 ∧ (base.setR 1 255).getR 1 ≠ 0) ∧
    ((base.setR 1 256).getR 1).toNat > 255 ∧ base.getR 1 = 0 := by
  decide +kernel

theorem witness_FieldPowerAndAntilog :
    (((base.setR 1 255).getR 1).toNat ≤ 255 ∧ (base.setR 1 255).getR 1 ≠ 0) ∧
    (base.getR 1 = 0 ∧ 0 < ((base.setR 2 1).getR 2).toInt) ∧ (base.getR 1 = 0 ∧ base.getR 2 = 0) ∧
    (base.getR 1 = 0 ∧ ((base.setR 2 0xFFFF).getR 2).toInt < 0) ∧ ((base.setR 1 256).getR 1).toNat > 255 := by
  decide +kernel

theorem witness_PaddPscalePderiv :
    ((base.setR 1 255).getR 1).toNat ≤ 255 ∧ ((base.setR 1 256).getR 1).toNat > 255 := by
  decide +kernel

theorem witness_PmulMultiplies :
    base.TablesBuilt ∧ deg (base.getP 0) < 0 ∧
    (((base.setP 0 (xPow 255)).setP 1 [1]).TablesBuilt ∧
      0 ≤ deg (((base.setP 0 (xPow 255)).setP 1 [1]).getP 0) ∧ 0 ≤ deg (((base.setP 0 (xPow 255)).setP 1 [1]).getP 1) ∧
      deg (((base.setP 0 (xPow 255)).setP 1 [1]).getP 0) + deg (((base.setP 0 (xPow 255)).setP 1 [1]).getP 1) ≤ 255) ∧
    (((base.setP 0 (xPow 255)).setP 1 [0, 1]).TablesBuilt ∧
      deg (((base.setP 0 (xPow 255)).setP 1 [0, 1]).getP 0) + deg (((base.setP 0 (xPow 255)).setP 1 [0, 1]).getP 1)
        > 255) :=
  ⟨base_built, by decide +kernel, ⟨base_built, by decide +kernel⟩, base_built, by decide +kernel⟩

theorem witness_PevalIsSumOfTerms :
    ((base.setR 1 255).TablesBuilt ∧ ((base.setR 1 255).getR 1).toNat ≤ 255) ∧
    ((base.setR 1 256).TablesBuilt ∧ ((base.setR 1 256).getR 1).toNat > 255) :=
  ⟨⟨base_built, by decide +kernel⟩, base_built, by decide +kernel⟩

theorem witness_PdivDividesWithRemainder :
    ((base.setP 1 [5]).TablesBuilt ∧ 0 ≤ deg ((base.setP 1 [5]).getP 1)) ∧
    (deg (((base.setP 0 [1]).setP 1 [5]).getP 1) ≤ deg (((base.setP 0 [1]).setP 1 [5]).getP 0)) ∧
    (base.TablesBuilt ∧ deg (base.getP 1) < 0) ∧ (2 : PIx) ≠ 3 :=
  ⟨⟨base_built, by decide +kernel⟩, by decide +kernel, ⟨base_built, by decide +kernel⟩, by decide⟩

theorem witness_EralocLocatesErasures :
    ((base.setP 0 [254]).TablesBuilt ∧ ((base.setP 0 [254]).getP 0).length ≤ 255 ∧
      ∀ p ∈ (base.setP 0 [254]).getP 0, p.toNat ≤ 254) ∧
    ((base.setP 0 [255]).TablesBuilt ∧ ∃ p ∈ (base.setP 0 [255]).getP 0, p.toNat > 254) ∧
    ((base.setP 0 (List.replicate 256 0)).getP 0).length > 255 :=
  ⟨⟨base_built, by decide +kernel⟩, ⟨base_built, by decide +kernel⟩, by decide +kernel⟩

theorem witness_XgcdGivesBezout :
    base.TablesBuilt ∧ ((1 : PIx) ≠ 2 ∧ (1 : PIx) ≠ 3 ∧ (2 : PIx) ≠ 3) ∧
    (((base.setP 0 (xPow 255)).setP 1 [1]).getP 0).length ≤ 256 :=
  ⟨base_built, by decide, by decide +kernel⟩

theorem witness_SugiStopsAtBound :
    ((base.setR 2 0xFFFF).TablesBuilt ∧ -1 ≤ ((base.setR 2 0xFFFF).getR 2).toInt ∧
      deg (base.getP 1) ≤ ((base.setR 2 0xFFFF).getR 2).toInt) ∧
    ((base.setP 1 [0, 1]).TablesBuilt ∧ -1 ≤ ((base.setP 1 [0, 1]).getR 2).toInt ∧
      ((base.setP 1 [0, 1]).getR 2).toInt < deg ((base.setP 1 [0, 1]).getP 1)) ∧
    ((base.setR 2 0xFFFE).getR 2).toInt < -1 :=
  ⟨⟨base_built, by decide +kernel⟩, ⟨base_built, by decide +kernel⟩, by decide +kernel⟩

/-- The cofactor of ELOC's bounded loop for a syndrome, without erasures. -/
def cofactor (syn : Poly) (nsym : Nat) : Poly :=
  (sugiyama printed (xPow nsym) (evaluator printed syn [1] nsym) ((nsym / 2 : Nat) - 1)).2.1

/-- For ElocSolvesOrReports: a bad entry, too many erasures, a cofactor that vanishes at 0, one that does not, and a
locator of too high a degree. -/
theorem witness_ElocSolvesOrReports :
    (∃ p ∈ (base.setP 1 [255]).getP 1, p.toNat > 254) ∧
    ((base.setP 1 [254]).TablesBuilt ∧ ((base.setP 1 [254]).getP 1).length > (base.setP 1 [254]).nsym.toNat) ∧
    coef (cofactor [0, 1] 2) 0 = 0 ∧ cofactor [0xFF, 0x7F, 0x2A, 0x77] 4 = [8, 0x2A, 0x74] ∧
    (cofactor [1, 1, 0] 3 = [1, 1, 1] ∧ 2 * deg [1, 1, 1] - 0 > 3) :=
  ⟨by decide +kernel, ⟨base_built, by decide +kernel⟩, by decide +kernel⟩

/-- For the root-count clauses of ElocSolvesOrReports, BmlocSolvesOrReports and RootsAndPositions: the position 0
declared twice gives the locator (1 + x)^2, whose one root does not match its degree. -/
theorem witness_double_root :
    erasLoc printed [0, 0] = [1, 0, 1] ∧ (scanRoots printed [1, 0, 1]).length = 1 ∧ deg [1, 0, 1] = 2 :=
  ⟨by decide +kernel, by rw [scan_double]; rfl, by decide⟩

theorem witness_BmlocSolvesOrReports :
    (∃ p ∈ (base.setP 1 [255]).getP 1, p.toNat > 254) ∧
    ((base.setP 1 [254]).TablesBuilt ∧ ((base.setP 1 [254]).getP 1).length > (base.setP 1 [254]).nsym.toNat) ∧
    bmLocator printed [1, 1, 0] [] 3 = [1, 1, 1] :=
  ⟨by decide +kernel, ⟨base_built, by decide +kernel⟩, by decide +kernel⟩

theorem witness_ZeroSyndromeGivesErasureLocator :
    (withNsym 1 (base.setP 1 [254])).TablesBuilt ∧
    ((withNsym 1 (base.setP 1 [254])).getP 1).length ≤ (withNsym 1 (base.setP 1 [254])).nsym.toNat ∧
    (∀ p ∈ (withNsym 1 (base.setP 1 [254])).getP 1, p.toNat ≤ 254) ∧
    ∀ k, k < (withNsym 1 (base.setP 1 [254])).nsym.toNat → coef ((withNsym 1 (base.setP 1 [254])).getP 2) k = 0 :=
  ⟨base_built, by decide +kernel⟩

/-- For SolversAgreeWithinCapacity: the zero codeword, an error of value 5 at position 1 and a declared position 0, and
capacity met exactly. -/
theorem witness_SolversAgreeWithinCapacity :
    primitive Config.standard = true ∧ Codeword printed [] 3 ∧
    ([(0 : Byte)].map BitVec.toNat ++ [1]).Nodup ∧ (∀ p ∈ [(0 : Byte)].map BitVec.toNat ++ [1], p ≤ 254) ∧
    2 * [1].length + [(0 : Byte)].length ≤ 3 ∧ (∀ p ∈ [1], coef [0, 5] p ≠ 0) ∧
    ∀ p, p ∉ [(0 : Byte)].map BitVec.toNat ++ [1] → coef [0, 5] p = 0 := by
  refine ⟨standard_primitive, fun _ _ => rfl, by decide, by decide, by decide, by decide, fun p hp => ?_⟩
  match p, hp with
  | 0, hp => exact absurd (by decide) hp
  | 1, hp => exact absurd (by decide) hp
  | p + 2, _ => rfl

/-- For RootsAndPositions: the count matches for 1 + 20x and for x, which has the root 0, and not for the zero
polynomial. -/
theorem witness_RootsAndPositions :
    (findRoots printed [1, 0x20]).2 = true ∧ coef [1, 0x20] 0 ≠ 0 ∧ (findRoots printed [0, 1]).2 = true ∧
    coef [0, 1] 0 = 0 ∧ (findRoots printed []).2 = false :=
  ⟨by rw [test_findRoots_locator], by decide, by rw [test_findRoots_x], by decide, by decide +kernel⟩

theorem witness_ForneyComputesMagnitudes :
    (∃ p ∈ (base.setP 0 [255]).getP 0, p.toNat > 254) ∧
    (∀ p ∈ ((base.setP 0 [254]).setP 1 [1, 1]).getP 0,
      polyEval printed (polyDeriv (((base.setP 0 [254]).setP 1 [1, 1]).getP 1)) (printed.alpha (-(p.toNat : Int))) ≠ 0) ∧
    (∃ p ∈ ((base.setP 0 [254]).setP 1 [1]).getP 0,
      polyEval printed (polyDeriv (((base.setP 0 [254]).setP 1 [1]).getP 1)) (printed.alpha (-(p.toNat : Int))) = 0) := by
  decide +kernel

/-- A block of two zero lanes but for an erased position 0, with one check symbol. -/
def erased : State := withNsym 1 ((base.setP 0 [9, 0]).setP 1 [0])

theorem erased_built : erased.TablesBuilt := base_built

theorem witness_FillerCompletes :
    (1 ≤ (erased.getP 0).length ∧ (erased.getP 0).length ≤ 255 ∧ erased.nsym.toNat ≤ (erased.getP 0).length ∧
      (erased.getP 1).length ≤ 255 ∧ (∀ p ∈ erased.getP 1, p.toNat < (erased.getP 0).length) ∧
      (erased.getP 1).Nodup ∧ (erased.getP 1).length ≤ erased.nsym.toNat) ∧
    ((withNsym 0 erased).getP 1).length > (withNsym 0 erased).nsym.toNat ∧ (base.getP 0).length < 1 ∧
    ((base.setP 0 (List.replicate 256 0)).getP 0).length > 255 ∧
    (withNsym 3 erased).nsym.toNat > ((withNsym 3 erased).getP 0).length ∧
    (∃ p ∈ (erased.setP 1 [2]).getP 1, p.toNat ≥ ((erased.setP 1 [2]).getP 0).length) ∧
    ¬ ((erased.setP 1 [1, 1]).getP 1).Nodup := by
  decide +kernel

/-- Two lanes that differ at position `k` only. -/
theorem agree_two (x y z : Byte) :
    AgreeOutside [x, z] [y, z] [0] ∧ AgreeOutside [z, x] [z, y] [1] := by
  refine ⟨⟨rfl, fun i hi => ?_⟩, rfl, fun i hi => ?_⟩
  · match i, hi with
    | 0, hi => exact absurd (by decide) hi
    | 1, _ => rfl
    | i + 2, _ => rfl
  · match i, hi with
    | 0, _ => rfl
    | 1, hi => exact absurd (by decide) hi
    | i + 2, _ => rfl

theorem witness_FillerRestoresCodeword :
    erased.TablesBuilt ∧ Codeword erased.tables [0, 0] erased.nsym.toNat ∧
    AgreeOutside (erased.getP 0) [0, 0] ((erased.getP 1).map BitVec.toNat) :=
  ⟨erased_built, by decide +kernel, (agree_two 9 0 0).1⟩

theorem witness_ApplyXorsMagnitudes :
    (((erased.setP 2 [7]).getP 1).length = ((erased.setP 2 [7]).getP 2).length ∧
      ∀ p ∈ (erased.setP 2 [7]).getP 1, p.toNat < ((erased.setP 2 [7]).getP 0).length) ∧
    (erased.getP 1).length ≠ (erased.getP 2).length ∧
    (∃ p ∈ (erased.setP 1 [2]).getP 1, p.toNat ≥ ((erased.setP 1 [2]).getP 0).length) := by
  decide +kernel

/-- For RsdecReturnsCodewordUnchanged: the conditions are those of `witness_FillerCompletes`; the block [00, 00] is a
codeword. -/
theorem witness_RsdecReturnsCodewordUnchanged :
    ((erased.setP 0 [0, 0]).getP 1).length ≤ (erased.setP 0 [0, 0]).nsym.toNat ∧
    Codeword (erased.setP 0 [0, 0]).tables ((erased.setP 0 [0, 0]).getP 0) (erased.setP 0 [0, 0]).nsym.toNat := by
  decide +kernel

theorem witness_RecheckedDecodeIsIdempotent :
    (withNsym 2 (base.setP 0 [0, 5])).ctrl.recheck = true ∧
    ∃ t, exec (.rsdec 2 0 1) (withNsym 2 (base.setP 0 [0, 5])) = .next t ∧ t.result = .ok ∧ t.getP 1 = [] :=
  ⟨rfl, _, test_rsdec.1, rfl, rfl⟩

/-- For RsdecCorrectsWithinCapacity: one error and two check symbols, and a block that already is the codeword with a
declared erasure. -/
theorem witness_RsdecCorrectsWithinCapacity :
    ((withNsym 2 (base.setP 0 [0, 5])).TablesBuilt ∧ (withNsym 2 (base.setP 0 [0, 5])).ctrl.noerror = false ∧
      Codeword printed [0, 0] 2 ∧ AgreeOutside [0, 5] [0, 0] (([] : Poly).map BitVec.toNat ++ [1]) ∧
      (∀ p ∈ [1], coef [0, 5] p ≠ coef [0, 0] p) ∧ (([] : Poly).map BitVec.toNat ++ [1]).Nodup ∧
      2 * [1].length + ([] : Poly).length ≤ 2) ∧
    (AgreeOutside [0, 0] [0, 0] ([(0 : Byte)].map BitVec.toNat ++ []) ∧ 2 * 0 + [(0 : Byte)].length ≤ 1) :=
  ⟨⟨base_built, rfl, by decide +kernel, (agree_two 5 0 0).2, by decide, by decide, by decide⟩,
    (agree_two 0 0 0).1, by decide⟩

/-- The state of `base` with `NSYM` = n, the block `r` in `P0`, no erasures, and `CTRL` = v. -/
def block (n : Byte) (r : Poly) (v : Word) : State := { withNsym n (base.setP 0 r) with ctrl := Ctrl.ofWord v }

/-- `block` with one entry of `EXP` overwritten: tables no build leaves, with which a Forney denominator can be 0. -/
def brokenBlock : State :=
  { block 4 [0x0D, 0x9B, 0x2C, 0x00] 3 with tables := { printed with exp := printed.exp.set 6 1 } }

/-- The premises RsdecReportsFirstCause has on every path, for RSDEC P2, P0, P1. -/
abbrev Undecoded (s : State) : Prop :=
  1 ≤ (s.getP 0).length ∧ (s.getP 0).length ≤ 255 ∧ s.nsym.toNat ≤ (s.getP 0).length ∧
  (∀ p ∈ s.getP 1, p.toNat < (s.getP 0).length) ∧ (s.getP 1).Nodup ∧ (s.getP 1).length ≤ s.nsym.toNat ∧
  ¬ Codeword s.tables (s.getP 0) s.nsym.toNat

/-- The syndrome of the block in `P0`. -/
abbrev blockSyndrome (s : State) : Poly := syndrome s.tables (s.getP 0) s.nsym.toNat

/-- `loc` is the locator of the selected algorithm, of a degree within the limit. -/
abbrev HasLocator (s : State) (loc : Poly) : Prop :=
  Undecoded s ∧
  ((s.ctrl.alg = .euclid ∧ (euclidLocator s.tables (blockSyndrome s) (s.getP 1) s.nsym.toNat).toOption = some loc) ∨
    (s.ctrl.alg = .berlekampMassey ∧ bmLocator s.tables (blockSyndrome s) (s.getP 1) s.nsym.toNat = loc)) ∧
  2 * deg loc - (s.getP 1).length ≤ s.nsym.toNat

/-- The premises of its paths with a locator: `roots` are the roots of `loc`. -/
abbrev Located (s : State) (loc roots : Poly) : Prop := HasLocator s loc ∧ scanRoots s.tables loc = roots

/-- The cause a computation fails with, if it fails. -/
def causeOf (x : Except Cause Poly) : Option Cause :=
  match x with
  | .ok _ => none
  | .error c => some c

/-- The position of a root, as RsdecReportsFirstCause writes it. -/
abbrev positionOf (s : State) (y : Byte) : Nat := (255 - s.tables.logAt y) % 255

/-- Forney's magnitudes at a list of positions. -/
abbrev blockMagnitudes (s : State) (loc pos : Poly) : Except Cause Poly :=
  forney s.tables loc (evaluator s.tables (blockSyndrome s) loc s.nsym.toNat) pos

/-- What `Located` says of the roots is what RsdecReportsFirstCause asks of them. -/
theorem roots_of_scan {t : Tables} {p roots : Poly} (h : scanRoots t p = roots) :
    roots.Pairwise (fun x y => x.toNat < y.toNat) ∧ ∀ y, y ∈ roots ↔ polyEval t p y = 0 := by
  have all : ∀ y : Byte, y ∈ fieldElements := fun y =>
    List.mem_map.mpr ⟨y.toNat, List.mem_range.mpr y.isLt, by simp⟩
  have rising : fieldElements.Pairwise (fun x y => x.toNat < y.toNat) :=
    List.pairwise_map.mpr (List.pairwise_lt_range.imp_of_mem fun hx hy h => by
      simp only [List.mem_range] at hx hy
      simp only [BitVec.toNat_ofNat]
      omega)
  subst h
  exact ⟨rising.sublist List.filter_sublist, fun y => by simp [scanRoots, all]⟩

/-- UNC_LAMBDA0 by Euclid, and UNC_CAPACITY by Berlekamp-Massey on the same block. -/
theorem witness_Rsdec_noLocator :
    (Undecoded (block 2 [2, 2] 2) ∧ (block 2 [2, 2] 2).ctrl.alg = .euclid ∧
      causeOf (euclidLocator printed (blockSyndrome (block 2 [2, 2] 2)) [] 2) = some .uncLambda0) ∧
    (Undecoded (block 2 [2, 2] 3) ∧ (block 2 [2, 2] 3).ctrl.alg = .berlekampMassey ∧
      bmLocator printed (blockSyndrome (block 2 [2, 2] 3)) [] 2 = [1, 0, 6] ∧ 2 * deg [1, 0, 6] - 0 > 2) := by
  decide +kernel

/-- UNC_FACTOR: a locator of degree 2 with one root. -/
theorem witness_Rsdec_uncFactor :
    Located (block 4 [0xCE, 0xB3, 0x4D, 0x30] 2) [1, 0, 1] [1] ∧ (([1] : Poly).length : Int) ≠ deg [1, 0, 1] :=
  ⟨⟨by decide +kernel, scan_double⟩, by decide⟩

/-- UNC_EMPTY: a syndrome that is not all-zero with the constant locator, by either algorithm. -/
theorem witness_Rsdec_uncEmpty :
    Located (block 2 [4, 2] 2) [1] [] ∧ Located (block 2 [4, 2] 3) [1] [] ∧ deg [1] = 0 := by
  decide +kernel

/-- UNC_POSRANGE: the one root has position 5, beyond the block of two lanes. -/
theorem witness_Rsdec_uncPosrange :
    Located (block 2 [0x22, 0x21] 2) [1, 0x20] [0x6C] ∧ positionOf (block 2 [0x22, 0x21] 2) 0x6C ≥ 2 :=
  ⟨⟨by decide +kernel, scan_locator⟩, by decide +kernel⟩

/-- UNC_RECHECK: one located position, and a block that is no codeword after the correction. -/
theorem witness_Rsdec_uncRecheck :
    Located (block 4 [0x05, 0xD4, 0x7D, 0xEE] 2) [1, 2] [0x8E] ∧
    positionOf (block 4 [0x05, 0xD4, 0x7D, 0xEE] 2) 0x8E = 1 ∧
    (blockMagnitudes (block 4 [0x05, 0xD4, 0x7D, 0xEE] 2) [1, 2] [1]).toOption = some [0x3D] ∧
    (block 4 [0x05, 0xD4, 0x7D, 0xEE] 2).ctrl.recheck = true ∧
    ¬ Codeword printed (applyMags [0x05, 0xD4, 0x7D, 0xEE] [1] [0x3D]) 4 :=
  ⟨⟨by decide +kernel, scan_error⟩, by decide +kernel⟩

/-- STRICT_CORRECTED and success: one error, corrected, with NOERROR = 1 and with NOERROR = 0. -/
theorem witness_Rsdec_corrected :
    (Located (block 2 [0, 5] 6) [1, 2] [0x8E] ∧ (block 2 [0, 5] 6).ctrl.noerror = true) ∧
    (Located (block 2 [0, 5] 2) [1, 2] [0x8E] ∧ (block 2 [0, 5] 2).ctrl.noerror = false) ∧
    positionOf (block 2 [0, 5] 6) 0x8E = 1 ∧
    (blockMagnitudes (block 2 [0, 5] 6) [1, 2] [1]).toOption = some [5] ∧
    Codeword printed (applyMags [0, 5] [1] [5]) 2 :=
  ⟨⟨⟨by decide +kernel, scan_error⟩, rfl⟩, ⟨⟨by decide +kernel, scan_error⟩, rfl⟩, by decide +kernel⟩

/-- CFG_FORNEY_DEN, which needs tables no build leaves; and a state of the same paths whose tables are the built ones. -/
theorem witness_Rsdec_forneyDen :
    (Located brokenBlock [0x01, 0x00, 0x40] [0x01, 0xAD] ∧
      positionOf brokenBlock 0x01 = 0 ∧ positionOf brokenBlock 0xAD = 3 ∧
      causeOf (blockMagnitudes brokenBlock [0x01, 0x00, 0x40] [0, 3]) = some .cfgForneyDen) ∧
    (block 2 [0, 5] 2).TablesBuilt :=
  ⟨by decide +kernel, base_built⟩

theorem witness_StrictModeReplacesCorrections :
    ((withNsym 2 (base.setP 0 [0, 5])).ctrl.noerror = false ∧
      ∃ t, exec (.rsdec 2 0 1) (withNsym 2 (base.setP 0 [0, 5])) = .next t ∧ t.result = .ok ∧ t.flags.sz = false) ∧
    (∃ t, exec (.rsdec 2 0 1) (base.setP 0 [7]) = .next t ∧ t.result = .ok ∧ t.flags.sz = true) ∧
    (∃ t, exec (.rsdec 2 0 1) base = .next t ∧ t.result ≠ .ok) :=
  ⟨⟨rfl, _, test_rsdec.1, rfl, rfl⟩, ⟨_, rfl, rfl, rfl⟩, ⟨_, rfl, by decide⟩⟩

/-- For ScalarCommandsFrame, PolynomialCommandsFrame, SeveralDestinationsFrame, FlagCommandsFrame, WhatCommandsRead and
InterruptOutput: `exec` answers a next state whatever the command and the state. -/
theorem witness_frames (i : Instr) (s : State) : ∃ t, exec i s = .next t := exec_total i s

/-- One command of each frame. -/
theorem witness_frames_forms :
    (∃ t, exec (.li 1 2) base = .next t) ∧ (∃ t, exec (.forney 1 2 3 4) base = .next t) ∧
    (∃ t, exec (.pdiv 1 2 3 4) base = .next t) ∧ (∃ t, exec (.sugi 1 2 3 4 5 6) base = .next t) ∧
    (∃ t, exec (.synd 1 2) base = .next t) ∧ (∃ t, exec (.froots 1 2) base = .next t) ∧
    (∃ t, exec (.filler 1 2 3) base = .next t) :=
  ⟨exec_total _ _, exec_total _ _, exec_total _ _, exec_total _ _, exec_total _ _, exec_total _ _, exec_total _ _⟩

theorem witness_WhatCommandsRead : ∀ d a e, Instr.li 1 2 ≠ .rsdec d a e := by intros; simp

theorem witness_InterruptOutput :
    ∃ t, exec (.li 1 2) { base with ien := Ien.ofWord 3 } = .next t ∧ Ien.ieDone { ieDone := true, ieFatal := true } := by
  exact ⟨_, rfl, rfl⟩

/-- For WindowReads, CmdWriteIsAcceptedOrDropped, HostWrites and BufWordsAreLittleEndian: idle, busy and FATAL states, and offsets at
the ends of the ranges. -/
theorem witness_host :
    (base.status.busy = false ∧ base.status.fatal = false) ∧ (pending 0).status.busy = true ∧
    (State.resetOf ⟨0x1B⟩ 0).status.fatal = true ∧
    (0x010 % 4 = 0 ∧ 0x020 % 4 = 0 ∧ 0x028 % 4 = 0 ∧ 0x03C % 4 = 0 ∧ 0x080 % 4 = 0 ∧ 0x3FC % 4 = 0) ∧
    (1020 % 4 = 0 ∧ 1020 < 1024) := by
  decide +kernel

theorem witness_OnlyUngivenHostFormsAreRefused :
    UngivenForm (.read32 0x7FE) ∧ UngivenForm (.write32 0x800 0) ∧ UngivenForm (.read8 0x3FF) ∧
    UngivenForm (.write8 0x800 0) ∧ ¬ UngivenForm (.read32 0x7FC) ∧ ¬ UngivenForm (.write8 0x7FF 0) := by
  simp only [UngivenForm]; decide

/-- For FatalLatchHolds: the default instance after a division by zero, with a host write to come. -/
theorem witness_FatalLatchHolds :
    (base.raise .cfgDivzero).status.fatal = true ∧ (base.raise .cfgDivzero).status.busy = false ∧
    ((base.raise .cfgDivzero).withHostOp (.write32 0 7)).agenda.head? ≠ some .reset ∧
    ∃ t, step ((base.raise .cfgDivzero).withHostOp (.write32 0 7)) = .next t :=
  ⟨rfl, rfl, by decide, _, rfl⟩

/-- For ResetInputGivesResetValues: a pending reset, with a primitive and with a non-primitive polynomial. -/
theorem witness_ResetInputGivesResetValues :
    ({ pending 5 with agenda := [.reset, .core] } : State).agenda = .reset :: [.core] ∧
    primitive (pending 5).cfg = true ∧ primitive (State.resetOf ⟨0x1B⟩ 0).cfg = false :=
  ⟨rfl, standard_primitive, by decide +kernel⟩

/-- For StepKeepsInvariant and StepKeepsMemoryFormAndTables. -/
theorem witness_StepKeepsInvariant :
    base.Invariant ∧ (∃ t, step base = .next t) ∧ base.MemoryCanonical ∧ base.agenda.head? ≠ some .reset := by
  refine ⟨⟨⟨standard_primitive.symm, fun _ => printed_eq⟩, ⟨by decide, by decide⟩, fun i => ?_, rfl⟩, ⟨_, rfl⟩, rfl,
    by decide⟩
  have h : base.getP i = [] := by simp [base, State.reset, State.resetOf, State.getP]
  rw [h]; decide

end Sys2Proof.Tests
end

section
/-! SUPPORT. The powers of `ALPHA` under a primitive polynomial (00_scope.md rule R8): they return to 1 after 255 steps
and not before, and they run through all nonzero bytes. -/

namespace Sys2Proof.Machine
open Function

theorem mem_powers {c : Config} {n : Nat} {x a : Byte} : a ∈ powers c n x ↔ ∃ i < n, (xtime c)^[i] x = a := by
  simp only [List.mem_iff_getElem, getElem_powers, length_powers, exists_prop]

/-- The test of the build in the words of rule R8. -/
theorem primitive_iff_powers {c : Config} :
    primitive c = true ↔ (∀ i, 1 ≤ i → i ≤ 254 → (xtime c)^[i] 1 ≠ 1) ∧ (xtime c)^[255] 1 = 1 := by
  simp only [primitive, Bool.and_eq_true, List.all_eq_true, bne_iff_ne, beq_iff_eq, mem_powers]
  refine and_congr_left fun _ => ⟨fun h i hi hn => ?_, ?_⟩
  · refine h _ ⟨i - 1, by omega, ?_⟩
    rw [← iterate_succ_apply, Nat.succ_eq_add_one, Nat.sub_add_cancel hi]
  · rintro h _ ⟨i, hi, rfl⟩
    rw [← iterate_succ_apply]
    exact h _ (by omega) (by omega)

/-- Under a primitive polynomial 1 has the period 255. -/
theorem minimalPeriod_of_primitive {c : Config} (hc : primitive c = true) : minimalPeriod (xtime c) 1 = 255 := by
  obtain ⟨hne, h255⟩ := primitive_iff_powers.1 hc
  have hper : IsPeriodicPt (xtime c) 255 1 := h255
  refine le_antisymm (hper.minimalPeriod_le (by decide)) (not_lt.1 fun hlt => ?_)
  exact hne _ (hper.minimalPeriod_pos (by decide)) (by omega) (isPeriodicPt_minimalPeriod _ _)

theorem xtime_zero (c : Config) : xtime c 0 = 0 := by simp [xtime]

theorem iterate_xtime_zero (c : Config) (i : Nat) : (xtime c)^[i] 0 = 0 := iterate_fixed (xtime_zero c) i

/-- No power is 0: all have the period 255, and 0 is a fixed point. -/
theorem iterate_xtime_one_ne_zero {c : Config} (hc : primitive c = true) (i : Nat) : (xtime c)^[i] 1 ≠ 0 := by
  intro h0
  have hmem : (1 : Byte) ∈ periodicPts (xtime c) :=
    minimalPeriod_pos_iff_mem_periodicPts.1 (by rw [minimalPeriod_of_primitive hc]; decide)
  have hper := minimalPeriod_apply_iterate hmem i
  rw [h0, minimalPeriod_eq_one_iff_isFixedPt.2 (xtime_zero c), minimalPeriod_of_primitive hc] at hper
  exact absurd hper (by decide)

/-- The 255 powers are distinct and none is 0, so they are all 255 nonzero bytes. -/
theorem exists_iterate_xtime_one_eq {c : Config} (hc : primitive c = true) {a : Byte} (ha : a ≠ 0) :
    ∃ i < 255, (xtime c)^[i] 1 = a := by
  have hinj : Set.InjOn (fun i => (xtime c)^[i] 1) (Finset.range 255) := by
    rw [Finset.coe_range, ← minimalPeriod_of_primitive hc]
    exact iterate_injOn_Iio_minimalPeriod
  have hall : (Finset.range 255).image (fun i => (xtime c)^[i] 1) = Finset.univ.erase 0 := by
    refine Finset.eq_of_subset_of_card_le (fun x hx => ?_) ?_
    · obtain ⟨i, -, rfl⟩ := Finset.mem_image.1 hx
      exact Finset.mem_erase.2 ⟨iterate_xtime_one_ne_zero hc i, Finset.mem_univ _⟩
    · rw [Finset.card_image_of_injOn hinj, Finset.card_erase_of_mem (Finset.mem_univ 0), Finset.card_univ,
        ← FinEnum.card_eq_fintypeCard, FinEnum.card_bitVec, Finset.card_range]
      decide
  have hmem : a ∈ Finset.univ.erase 0 := Finset.mem_erase.2 ⟨ha, Finset.mem_univ a⟩
  rw [← hall] at hmem
  simpa only [Finset.mem_image, Finset.mem_range] using hmem

/-- `LOG` inverts `EXP` (10_state.md rule R30): what the build leaves at `a` is the exponent of `a`. -/
theorem logAt_built_spec {c : Config} (hc : primitive c = true) {a : Byte} (ha : a ≠ 0) :
    (builtTables c).logAt a < 255 ∧ (xtime c)^[(builtTables c).logAt a] 1 = a := by
  have hlt : logOf c a < (powers c 255 1).length :=
    List.idxOf_lt_length_of_mem (mem_powers.2 (exists_iterate_xtime_one_eq hc ha))
  have hlog : (builtTables c).logAt a = logOf c a := by
    rw [logAt_built c ha]
    exact Nat.mod_eq_of_lt (by rw [length_powers] at hlt; omega)
  rw [hlog, ← getElem_powers c 255 1 _ hlt]
  exact ⟨by simpa [length_powers] using hlt, List.getElem_idxOf hlt⟩

/-- The tables multiply by adding exponents (41_field.md rule R122). -/
theorem gfMul_built {c : Config} (hc : primitive c = true) {a b : Byte} (ha : a ≠ 0) (hb : b ≠ 0) :
    gfMul (builtTables c) a b = (xtime c)^[(builtTables c).logAt a + (builtTables c).logAt b] 1 := by
  rw [gfMul, if_neg (not_or.2 ⟨ha, hb⟩), expAt_built, ← minimalPeriod_of_primitive hc,
    iterate_mod_minimalPeriod_eq]

/-! The product of residues, for every polynomial. -/

theorem xorSum_succ (n : Nat) (f : Nat → Byte) : xorSum (n + 1) f = xorSum n f ^^^ f n := by
  simp [xorSum, List.range_succ, gfAdd]

theorem xtime_xorSum (c : Config) (n : Nat) (f : Nat → Byte) :
    xtime c (xorSum n f) = xorSum n fun i => xtime c (f i) := by
  induction n with
  | zero => exact xtime_zero c
  | succ n ih => rw [xorSum_succ, xorSum_succ, xtime_xor, ih]

/-- x·a times b is x times the product. -/
theorem residueMul_xtime_left (c : Config) (a b : Byte) :
    residueMul c (xtime c a) b = xtime c (residueMul c a b) := by
  simp only [residueMul, xtime_xorSum, apply_ite (xtime c), xtime_zero, ← iterate_succ_apply, iterate_succ_apply']

theorem residueMul_iterate_left (c : Config) (i : Nat) (a b : Byte) :
    residueMul c ((xtime c)^[i] a) b = (xtime c)^[i] (residueMul c a b) :=
  Semiconj.iterate_right (f := (residueMul c · b)) (fun a => residueMul_xtime_left c a b) i a

theorem xtime_twoPow (c : Config) {i : Nat} (hi : i < 7) : xtime c (BitVec.twoPow 8 i) = BitVec.twoPow 8 (i + 1) := by
  interval_cases i <;> rfl

/-- Below the degree of the polynomial x^i is the byte with bit i set. -/
theorem iterate_xtime_one_of_lt (c : Config) {i : Nat} (hi : i < 8) : (xtime c)^[i] 1 = BitVec.twoPow 8 i := by
  induction i with
  | zero => rfl
  | succ i ih => rw [iterate_succ_apply', ih (by omega), xtime_twoPow c (by omega)]

theorem xorSum_congr {n : Nat} {f g : Nat → Byte} (h : ∀ i < n, f i = g i) : xorSum n f = xorSum n g := by
  induction n with
  | zero => rfl
  | succ n ih => rw [xorSum_succ, xorSum_succ, ih fun i hi => h i (by omega), h n (by omega)]

theorem xorSum_twoPow (b : Byte) : (xorSum 8 fun i => if b.getLsbD i then BitVec.twoPow 8 i else 0) = b := by
  revert b; decide

theorem residueMul_one_left (c : Config) (b : Byte) : residueMul c 1 b = b := by
  rw [residueMul, xorSum_congr fun i hi => by rw [iterate_xtime_one_of_lt c hi], xorSum_twoPow]

theorem xorSum_zero (n : Nat) : (xorSum n fun _ => 0) = 0 := by
  induction n with
  | zero => rfl
  | succ n ih => rw [xorSum_succ, ih]; rfl

theorem residueMul_zero_left (c : Config) (b : Byte) : residueMul c 0 b = 0 := by
  simp only [residueMul, iterate_xtime_zero, ite_self, xorSum_zero]

theorem residueMul_zero_right (c : Config) (a : Byte) : residueMul c a 0 = 0 := by
  simp only [residueMul, BitVec.ofNat_eq_ofNat, BitVec.getLsbD_zero, Bool.false_eq_true, if_false]
  exact xorSum_zero 8

/-! The polynomials that pass the test. -/

/-- When the polynomial has the constant term 0, so has every multiple of x. -/
theorem getLsbD_zero_xtime {c : Config} (hc : c.primPoly.getLsbD 0 = false) (v : Byte) :
    (xtime c v).getLsbD 0 = false := by
  simp only [xtime, BitVec.getLsbD_setWidth]
  split <;> simp only [BitVec.getLsbD_xor, hc, BitVec.getLsbD_shiftLeft] <;> simp

theorem primitive_of_even {c : Config} (hc : c.primPoly.getLsbD 0 = false) : primitive c = false := by
  refine Bool.eq_false_iff.2 fun h => ?_
  have h1 : (xtime c)^[255] 1 = 1 := (primitive_iff_powers.1 h).2
  have h0 := getLsbD_zero_xtime hc ((xtime c)^[254] 1)
  rw [← iterate_succ_apply' (xtime c), h1] at h0
  exact absurd h0 (by decide)

/-- The polynomials of 00_scope.md rule R8. -/
def listedPolynomials : List (BitVec 9) :=
  [0x11D, 0x12B, 0x12D, 0x14D, 0x15F, 0x163, 0x165, 0x169, 0x171, 0x187, 0x18D, 0x1A9, 0x1C3, 0x1CF, 0x1E7, 0x1F5]

/-- The test, run on each of the 128 odd polynomials. -/
theorem primitive_odd_iff_mem_listed :
    ∀ n : Fin 128, primitive ⟨BitVec.ofNat 8 (2 * n + 1)⟩ = true ↔
      Config.primPoly ⟨BitVec.ofNat 8 (2 * n + 1)⟩ ∈ listedPolynomials := by
  decide +kernel

theorem primLow_of_odd {c : Config} (hc : c.primPoly.getLsbD 0 = true) :
    c.primLow = BitVec.ofNat 8 (2 * (c.primLow.toNat / 2) + 1) := by
  rw [Config.primPoly, BitVec.getLsbD_append, if_pos (by decide), BitVec.getLsbD, Nat.testBit_zero,
    decide_eq_true_iff] at hc
  rw [show 2 * (c.primLow.toNat / 2) + 1 = c.primLow.toNat by omega, BitVec.ofNat_toNat, BitVec.setWidth_eq]

theorem primitive_iff_mem_listed (c : Config) : primitive c = true ↔ c.primPoly ∈ listedPolynomials := by
  cases hbit : c.primPoly.getLsbD 0 with
  | false =>
    have hodd : ∀ p ∈ listedPolynomials, p.getLsbD 0 = true := by decide
    have hnot : c.primPoly ∉ listedPolynomials := fun hmem =>
      Bool.false_ne_true (hbit.symm.trans (hodd _ hmem))
    simp only [primitive_of_even hbit, hnot, Bool.false_eq_true]
  | true =>
    have hc : c = ⟨BitVec.ofNat 8 (2 * (c.primLow.toNat / 2) + 1)⟩ := congrArg Config.mk (primLow_of_odd hbit)
    rw [hc]
    exact primitive_odd_iff_mem_listed ⟨c.primLow.toNat / 2, by omega⟩

/-- A failed build leaves the core FATAL (70_reset_and_hazards.md rule R262). -/
theorem fatal_resetOf {c : Config} (draw : Nat) (hc : primitive c = false) :
    (State.resetOf c draw).status.fatal = true := by
  simp [State.resetOf, buildTables, hc]

end Sys2Proof.Machine
end

section
/-! The statements of 00_scope.md. -/

open Sys2Proof Sys2Proof.Machine

/-- Settles O16: a nonzero `x` is a power of `ALPHA`, and multiplying a residue by that power is the shift repeated,
which is how the tables multiply. -/
theorem tableProductIsResidueProduct : Obligations.TableProductIsResidueProduct := by
  intro c x y hc
  by_cases hx : x = 0
  · rw [hx, zero_gfMul, residueMul_zero_left]
  by_cases hy : y = 0
  · rw [hy, gfMul_zero, residueMul_zero_right]
  obtain ⟨-, hpx⟩ := logAt_built_spec hc hx
  obtain ⟨-, hpy⟩ := logAt_built_spec hc hy
  calc gfMul (builtTables c) x y
      = (xtime c)^[(builtTables c).logAt x + (builtTables c).logAt y] 1 := gfMul_built hc hx hy
    _ = (xtime c)^[(builtTables c).logAt x] y := by rw [Function.iterate_add_apply, hpy]
    _ = (xtime c)^[(builtTables c).logAt x] (residueMul c 1 y) := by rw [residueMul_one_left]
    _ = residueMul c x y := by rw [← residueMul_iterate_left, hpx]

/-- Settles O57: the build's test is rule R8's, and a build that fails it leaves FATAL; an even polynomial never brings
the powers back to 1, and the odd ones are run through the test. -/
theorem sixteenPrimitivePolynomials : Obligations.SixteenPrimitivePolynomials :=
  fun c draw => ⟨primitive_iff_powers, fatal_resetOf draw, primitive_iff_mem_listed c⟩
end

section
/-! SUPPORT. What a command reads and what it writes, said once for two runs side by side: from states that agree on
what the command reads, both runs write the same values or fail with the same cause. -/

namespace Sys2Proof.Machine

/-- What a command writes when it succeeds, besides `RESULT` and `STATUS`. -/
inductive Effect where
  | scalar (d : RIx) (v : Scalar)
  | poly (d : PIx) (v : Poly)
  | store (a : Nat) (vs : List Byte)
  | pair (q r : PIx) (x y : Poly)
  | triple (u v r : PIx) (x : Poly × Poly × Poly)
  | polySz (d : PIx) (v : Poly) (b : Bool)
  | polyRm (d : PIx) (v : Poly) (b : Bool)
  | block (d : PIx) (v : Poly) (k : Nat) (b : Bool)

/-- The writes of an effect, in terms of the model's own updates. -/
def Effect.apply (s : State) : Effect → State
  | .scalar d v => s.setR d v
  | .poly d v => s.setP d v
  | .store a vs => s.memWrite a vs
  | .pair q r x y => (s.setP q x).setP r y
  | .triple u v r x => s.setTriple u v r x
  | .polySz d v b => (s.setP d v).setSz b
  | .polyRm d v b => (s.setP d v).setRm b
  | .block d v k b => ((s.setP d v).setNcorr k).setSz b

/-- The effects a command can have: its destinations, and the range of a store (20_memory.md rule R66). -/
def mayWrite (i : Instr) : Effect → Prop :=
  match i with
  | .li d _ | .plen d _ | .pdeg d _ | .gfadd d _ _ | .gfmul d _ _ | .gfinv d _ | .gfpow d _ _ | .gflog d _
  | .gfexp d _ | .peval d _ _ => fun w => ∃ v, w = .scalar d v
  | .ldp d _ _ | .ldl d _ _ | .pmov d _ | .ptrim d _ | .padd d _ _ | .pmul d _ _ | .pscale d _ _ | .pderiv d _
  | .eraloc d _ | .omega d _ _ | .eloc d _ _ _ | .bmloc d _ _ _ | .forney d _ _ _ | .apply d _ _ _ =>
    fun w => ∃ v, w = .poly d v
  | .stp _ _ | .stl _ _ => fun w => ∃ a vs, a + vs.length ≤ Config.bufSize ∧ w = .store a vs
  | .pdiv q r _ _ => fun w => ∃ x y, w = .pair q r x y
  | .xgcd u v r _ _ | .sugi u v r _ _ _ => fun w => ∃ x, w = .triple u v r x
  | .synd d _ => fun w => ∃ v b, w = .polySz d v b
  | .froots d _ | .getpos d _ => fun w => ∃ v b, w = .polyRm d v b
  | .filler d _ _ | .rsdec d _ _ => fun w => ∃ v k b, w = .block d v k b

/-- The state `s'` agrees with `s` on everything the command reads; only RSDEC reads `CTRL` (10_state.md rule R29). -/
structure SameReads (i : Instr) (s s' : State) : Prop where
  r : s'.r = s.r
  p : s'.p = s.p
  nsym : s'.nsym = s.nsym
  buf : s'.buf = s.buf
  draw : s'.draw = s.draw
  tables : s'.tables = s.tables
  ctrl : (∃ d a e, i = .rsdec d a e) → s'.ctrl = s.ctrl

theorem SameReads.refl (i : Instr) (s : State) : SameReads i s s := ⟨rfl, rfl, rfl, rfl, rfl, rfl, fun _ => rfl⟩

section
variable {i : Instr} {s s' : State} (h : SameReads i s s')
include h

theorem SameReads.getR (j : RIx) : s'.getR j = s.getR j := by rw [State.getR, h.r, State.getR]

theorem SameReads.getP (j : PIx) : s'.getP j = s.getP j := by rw [State.getP, h.p, State.getP]

theorem SameReads.bufByte (a : Nat) : s'.bufByte a = s.bufByte a := by
  rw [State.bufByte, h.buf, h.draw, State.bufByte]

theorem SameReads.nsymN : s'.nsymN = s.nsymN := by rw [State.nsymN, h.nsym, State.nsymN]

theorem SameReads.fe (j : RIx) : s'.fe j = s.fe j := by rw [State.fe, h.getR, State.fe]

theorem SameReads.uint (j : RIx) : s'.uint j = s.uint j := by rw [State.uint, h.getR, State.uint]

theorem SameReads.sint (j : RIx) : s'.sint j = s.sint j := by rw [State.sint, h.getR, State.sint]

theorem SameReads.loadBytes (a b : RIx) : s'.loadBytes a b = s.loadBytes a b := by
  simp only [State.loadBytes, State.memRead, h.uint, h.bufByte]

end

/-- Both runs write one effect among `W`, or both fail with one cause. -/
def Lockstep (W : Effect → Prop) (s s' : State) (x x' : Except Cause State) : Prop :=
  (∃ w, W w ∧ x = .ok (w.apply s) ∧ x' = .ok (w.apply s')) ∨ ∃ c, x = .error c ∧ x' = .error c

theorem Lockstep.write {W : Effect → Prop} {s s' : State} (w : Effect) (hw : W w) :
    Lockstep W s s' (.ok (w.apply s)) (.ok (w.apply s')) :=
  .inl ⟨w, hw, rfl, rfl⟩

theorem Lockstep.bind {W : Effect → Prop} {s s' : State} {α : Type} {x : Except Cause α}
    {f f' : α → Except Cause State} (h : ∀ a, x = .ok a → Lockstep W s s' (f a) (f' a)) :
    Lockstep W s s' (x >>= f) (x >>= f') := by
  cases x with
  | error c => exact .inr ⟨c, rfl, rfl⟩
  | ok a => exact h a rfl

theorem storeBytes_lockstep {i : Instr} {s s' : State} (h : SameReads i s s') (b : RIx) (vs : List Byte) :
    Lockstep (fun w => ∃ a vs, a + vs.length ≤ Config.bufSize ∧ w = .store a vs) s s'
      (s.storeBytes b vs) (s'.storeBytes b vs) := by
  simp only [State.storeBytes, h.uint]
  refine .bind fun _ hrange => .write (.store (s.uint b) vs) ⟨_, _, ?_, rfl⟩
  simpa only [bufRange, require_eq_ok, decide_eq_true_eq] using hrange

/-- Both runs of a command end alike: completed with one effect among `W`, or failed with one cause. -/
def EndAlike (W : Effect → Prop) (s s' : State) (y y' : Answer) : Prop :=
  (∃ w, W w ∧ y = .next (w.apply s).complete ∧ y' = .next (w.apply s').complete) ∨
  ∃ c, y = .next (s.raise c) ∧ y' = .next (s'.raise c)

theorem Lockstep.perform {W : Effect → Prop} {s s' : State} {x x' : Except Cause State} (h : Lockstep W s s' x x') :
    EndAlike W s s' (s.perform x) (s'.perform x') := by
  obtain ⟨w, hw, rfl, rfl⟩ | ⟨c, rfl, rfl⟩ := h
  · exact .inl ⟨w, hw, rfl, rfl⟩
  · exact .inr ⟨c, rfl, rfl⟩

/-- A command run in two states that agree on what it reads ends alike in both. -/
theorem exec_endAlike {i : Instr} {s s' : State} (h : SameReads i s s') :
    EndAlike (mayWrite i) s s' (exec i s) (exec i s') := by
  cases i <;>
    simp only [exec, execLi, execLdp, execStp, execLdl, execStl, execPmov, execPlen, execPdeg, execPtrim, execGfadd,
      execGfmul, execGfinv, execGfpow, execGflog, execGfexp, execPadd, execPmul, execPscale, execPdiv, execPeval,
      execPderiv, execSynd, execEraloc, execOmega, execXgcd, execSugi, execEloc, execBmloc, execFroots, execGetpos,
      execForney, execFiller, execApply, execRsdec, mayWrite, pure_eq_ok, h.fe, h.uint, h.sint, h.getP, h.nsymN,
      h.tables, h.loadBytes] <;>
    apply Lockstep.perform
  case li | plen | pdeg | gfexp => exact .write (.scalar _ _) ⟨_, rfl⟩
  case gflog | gfinv | gfpow | gfadd | gfmul => exact .bind fun _ _ => .bind fun _ _ => .write (.scalar _ _) ⟨_, rfl⟩
  case peval => exact .bind fun _ _ => .write (.scalar _ _) ⟨_, rfl⟩
  case pmov | ptrim | padd | pderiv | omega => exact .write (.poly _ _) ⟨_, rfl⟩
  case ldp | ldl | pmul | pscale | eraloc | apply => exact .bind fun _ _ => .write (.poly _ _) ⟨_, rfl⟩
  case bmloc | forney => exact .bind fun _ _ => .bind fun _ _ => .write (.poly _ _) ⟨_, rfl⟩
  case eloc => exact .bind fun _ _ => .bind fun _ _ => .bind fun _ _ => .write (.poly _ _) ⟨_, rfl⟩
  case stp | stl => exact storeBytes_lockstep h _ _
  case pdiv => exact .bind fun _ _ => .write (.pair _ _ _ _) ⟨_, _, rfl⟩
  case xgcd => exact .write (.triple _ _ _ _) ⟨_, rfl⟩
  case sugi => exact .bind fun _ _ => .write (.triple _ _ _ _) ⟨_, rfl⟩
  case synd => exact .write (.polySz _ _ _) ⟨_, _, rfl⟩
  case froots => exact .write (.polyRm _ _ _) ⟨_, _, rfl⟩
  case getpos => exact .bind fun _ _ => .write (.polyRm _ _ _) ⟨_, _, rfl⟩
  case filler => exact .bind fun _ _ => .bind fun _ _ => .bind fun _ _ => .write (.block _ _ _ _) ⟨_, _, _, rfl⟩
  case rsdec d a e =>
    rw [h.ctrl ⟨d, a, e, rfl⟩]
    exact .bind fun _ _ => .bind fun _ _ => .bind fun _ _ => .write (.block _ _ _ _) ⟨_, _, _, rfl⟩

/-- The state a command leaves: its effect, one of `W`, and the completion, or the failure. -/
theorem exec_effect {i : Instr} {W : Effect → Prop} {s t : State} (hi : mayWrite i = W) (h : exec i s = .next t) :
    (∃ w, W w ∧ t = (w.apply s).complete) ∨ ∃ c, t = s.raise c := by
  obtain ⟨w, hw, hx, -⟩ | ⟨c, hx, -⟩ := exec_endAlike (SameReads.refl i s)
  · exact .inl ⟨w, hi ▸ hw, Host.Outcome.next.inj (h.symm.trans hx)⟩
  · exact .inr ⟨c, Host.Outcome.next.inj (h.symm.trans hx)⟩

end Sys2Proof.Machine
end

section
/-! SUPPORT. The frames of the commands (10_state.md rules R21, R25), from their effects, and what no command writes. -/

namespace Sys2Proof.Machine

/-- The cause with which a command can latch FATAL: the one of the configuration kind (60_exceptions.md rule R238). -/
def latchCause : Instr → Option Cause
  | .pdiv _ _ _ _ => some .cfgDivzero
  | .forney _ _ _ _ | .filler _ _ _ | .rsdec _ _ _ => some .cfgForneyDen
  | _ => none

theorem latchCause_of_mayRaise {x : Ctrl} {i : Instr} {c : Cause} (h : mayRaise x i c) (hk : c.kind = 2) :
    latchCause i = some c := by
  obtain ⟨-, hnonprim, -⟩ := mayRaise_ne h
  cases c with
  | cfgNonprim => exact absurd rfl hnonprim
  | cfgDivzero | cfgForneyDen => cases i <;> simp_all [mayRaise, latchCause]
  | _ => exact absurd hk (by decide)

/-- No command writes the control registers, and FATAL changes with one cause only. -/
theorem exec_control {i : Instr} {s t : State} (h : exec i s = .next t) :
    SameControl s t ∧ (t.status.fatal = s.status.fatal ∨ latchCause i = some t.result) := by
  obtain ⟨u, hu, rfl⟩ | ⟨c, hc, rfl⟩ := exec_cases h
  · rw [hu]
    exact ⟨⟨rfl, rfl, rfl, rfl, rfl, rfl, rfl, rfl, rfl, rfl, rfl⟩, .inl rfl⟩
  · refine ⟨⟨rfl, rfl, rfl, rfl, rfl, rfl, rfl, rfl, rfl, rfl, rfl⟩, ?_⟩
    by_cases hk : c.kind = 2
    · exact .inr (latchCause_of_mayRaise hc hk)
    · exact .inl (by simp [hk])

theorem exec_control_of_noLatch {i : Instr} {s t : State} (hi : latchCause i = none) (h : exec i s = .next t) :
    SameControl s t ∧ t.status.fatal = s.status.fatal := by
  simpa [hi] using exec_control h

theorem exec_control_of_latch {i : Instr} {s t : State} {c : Cause} (hi : latchCause i = none ∨ latchCause i = some c)
    (h : exec i s = .next t) : SameControl s t ∧ (t.status.fatal = s.status.fatal ∨ t.result = c) := by
  obtain ⟨hsame, hfatal⟩ := exec_control h
  refine ⟨hsame, hfatal.imp_right fun hr => ?_⟩
  simpa [hr] using hi

/-- The frame of a command with one scalar destination. -/
theorem scalar_frame {i : Instr} {s t : State} {d : RIx} (hi : mayWrite i = fun w => ∃ v, w = .scalar d v)
    (hl : latchCause i = none) (h : exec i s = .next t) :
    (∀ j, j ≠ d → t.getR j = s.getR j) ∧ SameP s t ∧ SameBuf s t ∧ t.flags = s.flags ∧ t.ncorr = s.ncorr ∧
      SameControl s t ∧ t.status.fatal = s.status.fatal := by
  have hcontrol := exec_control_of_noLatch hl h
  obtain ⟨_, ⟨v, rfl⟩, rfl⟩ | ⟨c, rfl⟩ := exec_effect hi h
  · exact ⟨fun j hj => s.getR_setR_ne hj.symm v, fun _ => rfl, fun _ => rfl, rfl, rfl, hcontrol⟩
  · exact ⟨fun _ _ => rfl, fun _ => rfl, fun _ => rfl, rfl, rfl, hcontrol⟩

/-- The frame of a command with one polynomial destination and no flag. -/
theorem poly_frame {i : Instr} {s t : State} {d : PIx} (hi : mayWrite i = fun w => ∃ v, w = .poly d v)
    (hl : latchCause i = none ∨ latchCause i = some .cfgForneyDen) (h : exec i s = .next t) :
    SameR s t ∧ (∀ j, j ≠ d → t.getP j = s.getP j) ∧ SameBuf s t ∧ t.flags = s.flags ∧ t.ncorr = s.ncorr ∧
      SameControl s t ∧ (t.status.fatal = s.status.fatal ∨ t.result = .cfgForneyDen) := by
  have hcontrol := exec_control_of_latch hl h
  obtain ⟨_, ⟨v, rfl⟩, rfl⟩ | ⟨c, rfl⟩ := exec_effect hi h
  · exact ⟨fun _ => rfl, fun j hj => s.getP_setP_ne hj.symm v, fun _ => rfl, rfl, rfl, hcontrol⟩
  · exact ⟨fun _ => rfl, fun _ _ => rfl, fun _ => rfl, rfl, rfl, hcontrol⟩

theorem pdiv_frame {s t : State} {q r a b : PIx} (h : exec (.pdiv q r a b) s = .next t) :
    SameR s t ∧ (∀ j, j ≠ q → j ≠ r → t.getP j = s.getP j) ∧ SameBuf s t ∧ t.flags = s.flags ∧
      t.ncorr = s.ncorr ∧ SameControl s t ∧ (t.status.fatal = s.status.fatal ∨ t.result = .cfgDivzero) := by
  have hcontrol := exec_control_of_latch (.inr rfl) h
  obtain ⟨_, ⟨x, y, rfl⟩, rfl⟩ | ⟨c, rfl⟩ := exec_effect rfl h
  · refine ⟨fun _ => rfl, fun j hq hr => ?_, fun _ => rfl, rfl, rfl, hcontrol⟩
    exact (State.getP_setP_ne _ hr.symm y).trans (s.getP_setP_ne hq.symm x)
  · exact ⟨fun _ => rfl, fun _ _ _ => rfl, fun _ => rfl, rfl, rfl, hcontrol⟩

/-- The frame of XGCD and SUGI. -/
theorem triple_frame {i : Instr} {s t : State} {u v r : PIx} (hi : mayWrite i = fun w => ∃ x, w = .triple u v r x)
    (hl : latchCause i = none) (h : exec i s = .next t) :
    SameR s t ∧ (∀ j, j ≠ u → j ≠ v → j ≠ r → t.getP j = s.getP j) ∧ SameBuf s t ∧ t.flags = s.flags ∧
      t.ncorr = s.ncorr ∧ SameControl s t ∧ t.status.fatal = s.status.fatal := by
  have hcontrol := exec_control_of_noLatch hl h
  obtain ⟨_, ⟨x, rfl⟩, rfl⟩ | ⟨c, rfl⟩ := exec_effect hi h
  · refine ⟨fun _ => rfl, fun j hu hv hr => ?_, fun _ => rfl, rfl, rfl, hcontrol⟩
    calc ((s.setTriple u v r x).complete).getP j
        = ((s.setP u x.1).setP v x.2.1).getP j := State.getP_setP_ne _ hr.symm _
      _ = (s.setP u x.1).getP j := State.getP_setP_ne _ hv.symm _
      _ = s.getP j := s.getP_setP_ne hu.symm _
  · exact ⟨fun _ => rfl, fun _ _ _ _ => rfl, fun _ => rfl, rfl, rfl, hcontrol⟩

theorem synd_frame {s t : State} {d a : PIx} (h : exec (.synd d a) s = .next t) :
    SameR s t ∧ (∀ j, j ≠ d → t.getP j = s.getP j) ∧ SameBuf s t ∧ t.flags.rm = s.flags.rm ∧
      t.ncorr = s.ncorr ∧ SameControl s t ∧ t.status.fatal = s.status.fatal := by
  have hcontrol := exec_control_of_noLatch rfl h
  obtain ⟨_, ⟨v, b, rfl⟩, rfl⟩ | ⟨c, rfl⟩ := exec_effect rfl h
  · exact ⟨fun _ => rfl, fun j hj => s.getP_setP_ne hj.symm v, fun _ => rfl, rfl, rfl, hcontrol⟩
  · exact ⟨fun _ => rfl, fun _ _ => rfl, fun _ => rfl, rfl, rfl, hcontrol⟩

/-- The frame of FROOTS and GETPOS. -/
theorem polyRm_frame {i : Instr} {s t : State} {d : PIx} (hi : mayWrite i = fun w => ∃ v b, w = .polyRm d v b)
    (hl : latchCause i = none) (h : exec i s = .next t) :
    SameR s t ∧ (∀ j, j ≠ d → t.getP j = s.getP j) ∧ SameBuf s t ∧ t.flags.sz = s.flags.sz ∧
      t.ncorr = s.ncorr ∧ SameControl s t ∧ t.status.fatal = s.status.fatal := by
  have hcontrol := exec_control_of_noLatch hl h
  obtain ⟨_, ⟨v, b, rfl⟩, rfl⟩ | ⟨c, rfl⟩ := exec_effect hi h
  · exact ⟨fun _ => rfl, fun j hj => s.getP_setP_ne hj.symm v, fun _ => rfl, rfl, rfl, hcontrol⟩
  · exact ⟨fun _ => rfl, fun _ _ => rfl, fun _ => rfl, rfl, rfl, hcontrol⟩

/-- The frame of FILLER and RSDEC. -/
theorem block_frame {i : Instr} {s t : State} {d : PIx} (hi : mayWrite i = fun w => ∃ v k b, w = .block d v k b)
    (hl : latchCause i = some .cfgForneyDen) (h : exec i s = .next t) :
    SameR s t ∧ (∀ j, j ≠ d → t.getP j = s.getP j) ∧ SameBuf s t ∧ t.flags.rm = s.flags.rm ∧
      SameControl s t ∧ (t.status.fatal = s.status.fatal ∨ t.result = .cfgForneyDen) := by
  have hcontrol := exec_control_of_latch (.inr hl) h
  obtain ⟨_, ⟨v, k, b, rfl⟩, rfl⟩ | ⟨c, rfl⟩ := exec_effect hi h
  · exact ⟨fun _ => rfl, fun j hj => s.getP_setP_ne hj.symm v, fun _ => rfl, rfl, hcontrol⟩
  · exact ⟨fun _ => rfl, fun _ _ => rfl, fun _ => rfl, rfl, hcontrol⟩

/-! What an effect does to the fields no command reads. -/

/-- An effect leaves SZ in both runs, or sets it to one value. -/
theorem Effect.sz_apply (e : Effect) (s s' : State) :
    ((e.apply s).flags.sz = s.flags.sz ∧ (e.apply s').flags.sz = s'.flags.sz) ∨
      (e.apply s').flags.sz = (e.apply s).flags.sz := by
  cases e with
  | polySz | block => exact .inr rfl
  | _ => exact .inl ⟨rfl, rfl⟩

/-- An effect leaves RM in both runs, or sets it to one value. -/
theorem Effect.rm_apply (e : Effect) (s s' : State) :
    ((e.apply s).flags.rm = s.flags.rm ∧ (e.apply s').flags.rm = s'.flags.rm) ∨
      (e.apply s').flags.rm = (e.apply s).flags.rm := by
  cases e with
  | polyRm => exact .inr rfl
  | _ => exact .inl ⟨rfl, rfl⟩

/-- An effect leaves `NCORR` in both runs, or sets it to one value. -/
theorem Effect.ncorr_apply (e : Effect) (s s' : State) :
    ((e.apply s).ncorr = s.ncorr ∧ (e.apply s').ncorr = s'.ncorr) ∨ (e.apply s').ncorr = (e.apply s).ncorr := by
  cases e with
  | block => exact .inr rfl
  | _ => exact .inl ⟨rfl, rfl⟩

/-! The memory form, and what no step changes. -/

theorem range_of_mayWrite_store {i : Instr} {a : Nat} {vs : List Byte} (h : mayWrite i (.store a vs)) :
    a + vs.length ≤ Config.bufSize := by
  cases i <;> simp only [mayWrite, reduceCtorEq, exists_const] at h
  case stp | stl =>
    obtain ⟨_, _, hrange, heq⟩ := h
    cases heq
    exact hrange

/-- Stores stay inside `BUF`, and no other command writes it. -/
theorem exec_memoryCanonical {i : Instr} {s t : State} (h : exec i s = .next t) (hs : s.MemoryCanonical) :
    t.MemoryCanonical := by
  obtain ⟨w, hw, rfl⟩ | ⟨c, rfl⟩ := exec_effect rfl h
  · cases w with
    | store a vs => exact Memory.wf_insertAll hs (range_of_mayWrite_store hw)
    | _ => exact hs
  · exact hs

theorem coreTurn_memoryCanonical {s t : State} (h : coreTurn s = .next t) (hs : s.MemoryCanonical) :
    t.MemoryCanonical := by
  obtain ⟨-, rfl⟩ | ⟨-, i, -, hexec⟩ | ⟨-, why, -, rfl⟩ := coreTurn_cases h
  · exact hs
  · exact exec_memoryCanonical hexec hs
  · exact hs

theorem coreTurn_cfg_tables {s t : State} (h : coreTurn s = .next t) : t.cfg = s.cfg ∧ t.tables = s.tables := by
  obtain ⟨-, rfl⟩ | ⟨-, i, -, hexec⟩ | ⟨-, why, -, rfl⟩ := coreTurn_cases h
  · exact ⟨rfl, rfl⟩
  · obtain ⟨⟨hcfg, htables, -⟩, -⟩ := exec_control hexec
    exact ⟨hcfg, htables⟩
  · exact ⟨rfl, rfl⟩

theorem write32_cfg_tables (s : State) (off : Nat) (v : Word) :
    (s.write32 off v).cfg = s.cfg ∧ (s.write32 off v).tables = s.tables := by
  unfold State.write32
  split_ifs <;> exact ⟨rfl, rfl⟩

theorem write32_buf_of_lt {s : State} {off : Nat} (v : Word) (h : off < 0x400) : (s.write32 off v).buf = s.buf := by
  unfold State.write32
  split_ifs <;> rfl

theorem write32_of_ge {s : State} {off : Nat} (v : Word) (h : 0x400 ≤ off) :
    s.write32 off v = s.memWrite (off - 0x400) (wordBytes v) := by
  unfold State.write32
  iterate 8 rw [if_neg (by omega)]

/-- A word of the window from 0x400 on lies inside `BUF`; the other offsets do not reach the memory. -/
theorem write32_memoryCanonical {s : State} {off : Nat} (v : Word) (hoff : wordForm off = true)
    (hs : s.MemoryCanonical) : (s.write32 off v).MemoryCanonical := by
  simp only [wordForm, Bool.and_eq_true, beq_iff_eq, decide_eq_true_eq] at hoff
  obtain hlt | hge := Nat.lt_or_ge off 0x400
  · rwa [State.MemoryCanonical, write32_buf_of_lt v hlt]
  · rw [write32_of_ge v hge]
    refine Memory.wf_insertAll hs ?_
    simp only [wordBytes, List.length_cons, List.length_nil, Config.bufSize]
    omega

theorem write8_memoryCanonical {s : State} {off : Nat} (v : Byte) (hoff : byteForm off = true)
    (hs : s.MemoryCanonical) : (s.memWrite (off - 0x400) [v]).MemoryCanonical := by
  simp only [byteForm, Bool.and_eq_true, decide_eq_true_eq] at hoff
  refine Memory.wf_insertAll hs ?_
  simp only [List.length_singleton, Config.bufSize]
  omega

theorem hostOp_memoryCanonical {s t : State} {op : HostOp} (h : s.hostOp op = .next t) (hs : s.MemoryCanonical) :
    t.MemoryCanonical := by
  obtain ⟨_, rfl⟩ | rfl | ⟨off, v, -, hoff, -, -, rfl⟩ | ⟨off, v, -, hoff, -, rfl⟩ := hostOp_cases h
  · exact hs
  · exact hs
  · exact write32_memoryCanonical v hoff hs
  · exact write8_memoryCanonical v hoff hs

theorem hostOp_cfg_tables {s t : State} {op : HostOp} (h : s.hostOp op = .next t) :
    t.cfg = s.cfg ∧ t.tables = s.tables := by
  obtain ⟨_, rfl⟩ | rfl | ⟨off, v, -, -, -, -, rfl⟩ | ⟨off, v, -, -, -, rfl⟩ := hostOp_cases h
  · exact ⟨rfl, rfl⟩
  · exact ⟨rfl, rfl⟩
  · exact write32_cfg_tables s off v
  · exact ⟨rfl, rfl⟩

/-! Reset. -/

theorem tablesConsistent_resetOf (c : Config) (draw : Nat) : (State.resetOf c draw).TablesConsistent := by
  unfold State.TablesConsistent
  cases hprim : primitive c <;> simp [State.resetOf, buildTables, hprim]

theorem statusConsistent_resetOf (c : Config) (draw : Nat) : (State.resetOf c draw).StatusConsistent :=
  ⟨nofun, fun h => by simpa [State.resetOf] using h⟩

theorem lanesBounded_resetOf (c : Config) (draw : Nat) : (State.resetOf c draw).LanesBounded := fun i => by
  simp [State.resetOf, State.getP]

theorem invariant_resetOf (c : Config) (draw : Nat) : (State.resetOf c draw).Invariant :=
  ⟨tablesConsistent_resetOf c draw, statusConsistent_resetOf c draw, lanesBounded_resetOf c draw, rfl⟩

/-! The words of the window (10_state.md rules R25, R28, R29, R37). -/

theorem toNat_toWord_status (x : Status) :
    x.toWord.toNat = x.busy.toNat + 2 * x.done.toNat + 4 * x.tblRdy.toNat + 8 * x.fatal.toNat + 16 * x.ovr.toNat := by
  obtain ⟨busy, done, tblRdy, fatal, ovr⟩ := x
  revert busy done tblRdy fatal ovr
  decide

theorem toNat_toWord_ctrl (x : Ctrl) :
    x.toWord.toNat = (x.alg == .berlekampMassey).toNat + 2 * x.recheck.toNat + 4 * x.noerror.toNat := by
  obtain ⟨alg, recheck, noerror⟩ := x
  cases alg <;> revert recheck noerror <;> decide

theorem toNat_toWord_flags (x : Flags) : x.toWord.toNat = x.sz.toNat + 2 * x.rm.toNat := by
  obtain ⟨sz, rm⟩ := x
  revert sz rm
  decide

theorem toNat_toWord_ien (x : Ien) : x.toWord.toNat = x.ieDone.toNat + 2 * x.ieFatal.toNat := by
  obtain ⟨ieDone, ieFatal⟩ := x
  revert ieDone ieFatal
  decide

/-- A byte of the state keeps its value in a word of the window. -/
theorem toNat_setWidth_byte (v : Byte) : (v.setWidth 32).toNat = v.toNat :=
  BitVec.toNat_setWidth_of_le (by decide)

theorem toNat_primPoly (c : Config) : (c.primPoly.setWidth 32).toNat = 256 + c.primLow.toNat := by
  rw [BitVec.toNat_setWidth_of_le (by decide), Config.primPoly, BitVec.toNat_append,
    ← Nat.shiftLeft_add_eq_or_of_lt c.primLow.isLt]
  rfl

/-- The window behind `IEN`: the scalar registers, `BUF`, and the reserved offsets around them. -/
theorem read32_of_ge {s : State} {off : Nat} (h : 0x028 ≤ off) :
    s.read32 off =
      if off < 0x040 then 0 else if off < 0x080 then (s.getR (registerAt off)).setWidth 32
      else if off < 0x400 then 0 else s.bufWord (off - 0x400) := by
  unfold State.read32
  iterate 10 rw [if_neg (by omega)]

theorem read32_register (s : State) (i : RIx) : s.read32 (0x040 + 4 * i.val) = (s.getR i).setWidth 32 := by
  have hi : registerAt (0x040 + 4 * i.val) = i := Fin.ext (by simp only [registerAt]; omega)
  rw [read32_of_ge (by omega), if_neg (by omega), if_pos (by omega), hi]

theorem read32_reserved_low {s : State} {off : Nat} (hlo : 0x028 ≤ off) (hhi : off ≤ 0x03C) : s.read32 off = 0 := by
  rw [read32_of_ge hlo, if_pos (by omega)]

theorem read32_reserved_high {s : State} {off : Nat} (hlo : 0x080 ≤ off) (hhi : off ≤ 0x3FC) : s.read32 off = 0 := by
  rw [read32_of_ge (by omega), if_neg (by omega), if_neg (by omega), if_pos (by omega)]

theorem read32_buf {s : State} {off : Nat} (h : 0x400 ≤ off) : s.read32 off = s.bufWord (off - 0x400) := by
  rw [read32_of_ge (by omega), if_neg (by omega), if_neg (by omega), if_neg (by omega)]

/-! The tables are inverse to each other. -/

/-- The powers of `ALPHA` below the period are told apart by their exponents. -/
theorem iterate_xtime_one_inj {c : Config} (hc : primitive c = true) {i j : Nat} (hi : i < 255) (hj : j < 255)
    (h : (xtime c)^[i] 1 = (xtime c)^[j] 1) : i = j := by
  rw [← minimalPeriod_of_primitive hc] at hi hj
  exact Function.iterate_injOn_Iio_minimalPeriod hi hj h

theorem expAt_built_of_lt (c : Config) {i : Nat} (hi : i < 255) : (builtTables c).expAt i = (xtime c)^[i] 1 := by
  rw [expAt_built, Nat.mod_eq_of_lt hi]

end Sys2Proof.Machine
end

section
/-! The statements of 10_state.md. -/

open Sys2Proof Sys2Proof.Machine

/-- Settles O14: `LOG[a]` is the exponent of `a`, and an exponent below the period is determined by its power. -/
theorem expAndLogAreInverse : Obligations.ExpAndLogAreInverse := by
  intro c hc
  refine ⟨fun a ha => ?_, fun i hi => ?_⟩
  · obtain ⟨hlt, hpow⟩ := logAt_built_spec hc ha
    exact ⟨hlt, (expAt_built_of_lt c hlt).trans hpow⟩
  · have hne := iterate_xtime_one_ne_zero hc i
    obtain ⟨hlt, hpow⟩ := logAt_built_spec hc hne
    rw [expAt_built_of_lt c hi]
    exact ⟨hne, iterate_xtime_one_inj hc hlt hi hpow⟩

/-- Settles O44: each of the ten commands writes one scalar register and raises no cause of the configuration kind. -/
theorem scalarCommandsFrame : Obligations.ScalarCommandsFrame := by
  intro s t d a b p imm h
  rcases h with h | h | h | h | h | h | h | h | h | h <;> exact scalar_frame rfl rfl h

/-- Settles O45: each of the fourteen commands writes one polynomial register, and only FORNEY has a cause that latches
FATAL. -/
theorem polynomialCommandsFrame : Obligations.PolynomialCommandsFrame := by
  intro s t d x y z a b v h
  rcases h with h | h | h | h | h | h | h | h | h | h | h | h | h | h <;>
    exact poly_frame rfl (by simp [latchCause]) h

/-- Settles O46: PDIV writes a pair of polynomial registers, XGCD and SUGI a triple. -/
theorem severalDestinationsFrame : Obligations.SeveralDestinationsFrame :=
  fun _ _ _ _ _ _ _ _ => ⟨pdiv_frame, fun h => h.elim (triple_frame rfl rfl) (triple_frame rfl rfl)⟩

/-- Settles O47: beside one polynomial register SYND writes SZ, FROOTS and GETPOS write RM, FILLER and RSDEC write SZ and
`NCORR`. -/
theorem flagCommandsFrame : Obligations.FlagCommandsFrame :=
  fun _ _ _ _ _ => ⟨synd_frame, fun h => h.elim (polyRm_frame rfl rfl) (polyRm_frame rfl rfl),
    fun h => h.elim (block_frame rfl rfl) (block_frame rfl rfl)⟩

/-- Settles O48: the run from the changed state has the same effect or the same cause, and an effect sets each flag and
`NCORR` to a value of its own or leaves it. -/
theorem whatCommandsRead : Obligations.WhatCommandsRead := by
  refine ⟨fun i s t c hi h => ?_, fun i s t f k c w x h => ?_⟩
  · have hreads : SameReads i s { s with ctrl := c } :=
      ⟨rfl, rfl, rfl, rfl, rfl, rfl, fun ⟨d, a, e, hrsdec⟩ => absurd hrsdec (hi d a e)⟩
    obtain ⟨e, -, hs, hs'⟩ | ⟨_, hs, hs'⟩ := exec_endAlike hreads
    · cases h.symm.trans hs
      rw [hs']
      cases e <;> rfl
    · cases h.symm.trans hs
      exact hs'
  · have hreads : SameReads i s { s with flags := f, ncorr := k, result := c, einfo := w, ien := x } :=
      ⟨rfl, rfl, rfl, rfl, rfl, rfl, fun _ => rfl⟩
    obtain ⟨e, -, hs, hs'⟩ | ⟨_, hs, hs'⟩ := exec_endAlike hreads
    · cases h.symm.trans hs
      refine ⟨_, hs', fun _ => ?_, fun _ => ?_, fun _ => ?_, ?_, ?_, ?_, e.sz_apply s _, e.rm_apply s _,
        e.ncorr_apply s _, .inl ⟨?_, ?_⟩⟩
      all_goals cases e <;> rfl
    · cases h.symm.trans hs
      exact ⟨_, hs', fun _ => rfl, fun _ => rfl, fun _ => rfl, rfl, rfl, rfl, .inl ⟨rfl, rfl⟩, .inl ⟨rfl, rfl⟩,
        .inl ⟨rfl, rfl⟩, .inr rfl⟩

/-- Settles O60, turn by turn: the core, a host operation, the reset input. -/
theorem stepKeepsMemoryFormAndTables : Obligations.StepKeepsMemoryFormAndTables := by
  intro s t h
  obtain ⟨-, hcore⟩ | ⟨op, rest, -, hhost⟩ | ⟨rest, hagenda, rfl⟩ := step_cases h
  · obtain ⟨hcfg, htables⟩ := coreTurn_cfg_tables hcore
    exact ⟨fun hs => coreTurn_memoryCanonical hcore hs, hcfg, fun _ => htables⟩
  · obtain ⟨hcfg, htables⟩ := hostOp_cfg_tables hhost
    exact ⟨fun hs => hostOp_memoryCanonical hhost hs, hcfg, fun _ => htables⟩
  · exact ⟨fun _ => rfl, rfl, fun hne => absurd (by rw [hagenda]; rfl) hne⟩

/-- Settles O49: the registers read as their words, the rest of the window by its ranges, and a host read of the right
form takes the first branch of `State.hostOp`. -/
theorem windowReads : Obligations.WindowReads := by
  intro s
  refine ⟨rfl, toNat_toWord_status _, toNat_toWord_ctrl _, toNat_setWidth_byte _, toNat_setWidth_byte _, rfl,
    toNat_setWidth_byte _, toNat_toWord_flags _, toNat_primPoly _, toNat_toWord_ien _,
    fun _ => read32_reserved_low, fun i => ?_,
    fun _ => read32_reserved_high, fun k hlo _ => read32_buf hlo, fun off halign hlt => ?_,
    fun off hlo hhi => ?_⟩
  · rw [read32_register]
    exact BitVec.toNat_setWidth_of_le (by decide)
  · rw [step_withHostOp, State.hostOp, if_pos (by simp [wordForm, halign, hlt])]
  · rw [step_withHostOp, State.hostOp, if_pos (by simp [byteForm, hlo, hhi])]

/-- Settles O50: the offset of `CMD` has the right form, so BUSY and FATAL alone decide. -/
theorem cmdWriteIsAcceptedOrDropped : Obligations.CmdWriteIsAcceptedOrDropped := by
  intro s w
  have hform : wordForm 0 = true := rfl
  refine ⟨fun hbusy hfatal => ?_, fun hdrop => ?_, rfl⟩
  · rw [step_withHostOp, State.hostOp, if_pos hform, if_neg (by simp [hbusy, hfatal])]
    rfl
  · rw [step_withHostOp, State.hostOp, if_pos hform, if_pos (by simpa using hdrop)]
    rfl

/-- Settles O59, from the invariant's four parts, for any polynomial. -/
theorem resetHasInvariant : Obligations.ResetHasInvariant :=
  ⟨invariant_resetOf Config.standard 0, invariant_resetOf⟩
end

section
/-! SUPPORT. Host writes step by step (20_memory.md rules R63, R64): when a write of the right form is dropped and when
it is performed, what it does at each range of the window, and a word write as four byte writes. -/

namespace Sys2Proof.Machine

/-! A write of the right form, as one step. -/

theorem step_write32_busy {s : State} {off : Nat} (v : Word) (hbusy : s.status.busy = true) (halign : off % 4 = 0)
    (hlt : off < 0x800) : step (s.withHostOp (.write32 off v)) = .next s.dropWrite := by
  rw [step_withHostOp, State.hostOp, if_pos (by simp [wordForm, halign, hlt]), if_pos (by simp [hbusy])]

/-- FATAL drops writes to `CMD` only, so it does not matter at any other offset. -/
theorem step_write32_idle {s : State} {off : Nat} (v : Word) (hbusy : s.status.busy = false) (halign : off % 4 = 0)
    (hpos : 0 < off) (hlt : off < 0x800) : step (s.withHostOp (.write32 off v)) = .next (s.write32 off v) := by
  rw [step_withHostOp, State.hostOp, if_pos (by simp [wordForm, halign, hlt]), if_neg (by simp [hbusy, hpos.ne'])]

theorem step_write8_busy {s : State} {off : Nat} (b : Byte) (hbusy : s.status.busy = true) (hge : 0x400 ≤ off)
    (hlt : off < 0x800) : step (s.withHostOp (.write8 off b)) = .next s.dropWrite := by
  rw [step_withHostOp, State.hostOp, if_pos (by simp [byteForm, hge, hlt]), if_pos hbusy]

theorem step_write8_idle {s : State} {off : Nat} (b : Byte) (hbusy : s.status.busy = false) (hge : 0x400 ≤ off)
    (hlt : off < 0x800) : step (s.withHostOp (.write8 off b)) = .next (s.memWrite (off - 0x400) [b]) := by
  rw [step_withHostOp, State.hostOp, if_pos (by simp [byteForm, hge, hlt]), if_neg (by simp [hbusy])]

/-! The ranges of the window as a write sees them, beside `write32_of_ge`. -/

theorem registerAt_register (i : RIx) : registerAt (0x040 + 4 * i.val) = i :=
  Fin.ext (by simp only [registerAt]; omega)

theorem write32_register (s : State) (i : RIx) (v : Word) :
    s.write32 (0x040 + 4 * i.val) v = s.setR i (v.setWidth 16) := by
  unfold State.write32
  iterate 6 rw [if_neg (by omega)]
  rw [if_pos (by omega), registerAt_register]

/-- The read-only registers (log 5) and the reserved offsets (10_state.md rule R44). -/
theorem write32_ignored (s : State) {k : Nat} (v : Word)
    (h : (0x010 ≤ k ∧ k ≤ 0x020) ∨ (0x028 ≤ k ∧ k ≤ 0x03C) ∨ (0x080 ≤ k ∧ k ≤ 0x3FC)) : s.write32 k v = s := by
  unfold State.write32
  iterate 5 rw [if_neg (by omega)]
  obtain hlow | hhigh := Nat.lt_or_ge k 0x040
  · rw [if_pos hlow]
  · rw [if_neg (by omega), if_neg (by omega), if_pos (by omega)]

/-! Bytes and words of `BUF`. -/

theorem State.bufByte_memWrite_singleton_same (s : State) (a : Nat) (b : Byte) :
    (s.memWrite a [b]).bufByte a = b :=
  s.bufByte_memWrite_inside (j := 0) (vs := [b]) Nat.zero_lt_one

theorem State.bufByte_memWrite_singleton_ne (s : State) {a j : Nat} (b : Byte) (h : j ≠ a) :
    (s.memWrite a [b]).bufByte j = s.bufByte j :=
  s.bufByte_memWrite_outside (by simp only [List.length_singleton]; omega)

theorem toNat_append_byte {n : Nat} (x : BitVec n) (b : Byte) : (x ++ b).toNat = 2 ^ 8 * x.toNat + b.toNat := by
  rw [BitVec.toNat_append, Nat.shiftLeft_eq, Nat.mul_comm, Nat.two_pow_add_eq_or_of_lt b.isLt]

theorem toNat_bufWord (s : State) (a : Nat) :
    (s.bufWord a).toNat = (s.bufByte a).toNat + 2 ^ 8 * (s.bufByte (a + 1)).toNat +
      2 ^ 16 * (s.bufByte (a + 2)).toNat + 2 ^ 24 * (s.bufByte (a + 3)).toNat := by
  simp only [State.bufWord, toNat_append_byte]
  omega

/-- The turns in which the host writes a sequence of bytes at rising offsets from `off`. -/
def byteWrites : Nat → List Byte → List Turn
  | _, [] => []
  | off, b :: bs => .host (.write8 off b) :: byteWrites (off + 1) bs

theorem run_succ_of_step {s t : State} (k : Nat) (h : step s = .next t) :
    Host.Core.run Sys2Proof.core (k + 1) s = Host.Core.run Sys2Proof.core k t := by
  simp only [Host.Core.run, show Sys2Proof.core.step s = .next t from h]

/-- Writing bytes one turn at a time leaves the state that one write of the sequence leaves. -/
theorem run_byteWrites {s : State} {off : Nat} {bs : List Byte} (rest : List Turn) (hbusy : s.status.busy = false)
    (hge : 0x400 ≤ off) (hlt : off + bs.length ≤ 0x800) :
    Host.Core.run Sys2Proof.core bs.length { s with agenda := byteWrites off bs ++ rest } =
      .next { s.memWrite (off - 0x400) bs with agenda := rest } := by
  induction bs generalizing s off with
  | nil => rfl
  | cons b bs ih =>
    rw [List.length_cons] at hlt
    have hstep : step { s with agenda := byteWrites off (b :: bs) ++ rest } =
        .next { s.memWrite (off - 0x400) [b] with agenda := byteWrites (off + 1) bs ++ rest } :=
      step_write8_idle (s := { s with agenda := byteWrites (off + 1) bs ++ rest }) b hbusy hge (by omega)
    rw [List.length_cons, run_succ_of_step _ hstep,
      ih (s := s.memWrite (off - 0x400) [b]) hbusy (by omega) (by omega), Nat.sub_add_comm hge]
    rfl

end Sys2Proof.Machine
end

section
/-! The statements of 20_memory.md. -/

open Sys2Proof Sys2Proof.Machine

/-- Settles O52: a word write stores the four bytes of the word in order, and so do four byte writes. -/
theorem bufWordsAreLittleEndian : Obligations.BufWordsAreLittleEndian := by
  intro s a v halign hlt
  refine ⟨?_, fun hbusy => ⟨_, step_write32_idle v hbusy (by omega) (by omega) (by omega), ?_⟩⟩
  · rw [read32_buf (by omega), Nat.add_sub_cancel_left]
    exact toNat_bufWord s a
  · rw [write32_of_ge v (by omega)]
    exact run_byteWrites (bs := wordBytes v) s.agenda hbusy (by omega)
      (by simp only [wordBytes, List.length_cons, List.length_nil]; omega)

/-- Settles O51: at every offset but that of `CMD` BUSY alone decides, and an accepted write acts by the range of its
offset. -/
theorem hostWrites : Obligations.HostWrites := by
  intro s v b
  refine ⟨fun hbusy => ?_, fun hbusy => ⟨fun _ => step_write32_busy v hbusy, fun _ => step_write8_busy b hbusy⟩⟩
  have hidle {off : Nat} := step_write32_idle (off := off) v hbusy
  refine ⟨hidle rfl (by decide) (by decide), hidle rfl (by decide) (by decide), hidle rfl (by decide) (by decide),
    hidle rfl (by decide) (by decide), fun i => ?_, fun k halign hrange => ?_, fun k hk => ?_⟩
  · rw [hidle (by omega) (by omega) (by omega), write32_register]
  · rw [hidle halign (by omega) (by omega), write32_ignored s v hrange]
  · rw [step_write8_idle b hbusy (by omega) (by omega), Nat.add_sub_cancel_left]
    exact ⟨_, rfl, rfl, s.bufByte_memWrite_singleton_same k b, fun _ => s.bufByte_memWrite_singleton_ne b⟩
end

section
/-! SUPPORT. A command word and its fields, both ways (30_encoding.md rules R80 to R82): a word is the packing of the
fields read from it, and the tests of rule R85 on a word, said as facts about these fields. -/

namespace Sys2Proof

/-- A word is packed from an opcode and six fields exactly when these are what the decoder reads from it. -/
theorem pack_eq_iff {op : Nat} {a b c d e f : Fin 16} {w : Word} (h : op < 256) :
    pack op a b c d e f = w ↔
      opcodeOf w = op ∧ fieldAt w 20 = a ∧ fieldAt w 16 = b ∧ fieldAt w 12 = c ∧ fieldAt w 8 = d ∧
      fieldAt w 4 = e ∧ fieldAt w 0 = f := by
  constructor
  · rintro rfl
    exact ⟨opcodeOf_pack _ _ _ _ _ _ h, fieldA_pack _ _ _ _ _ _ h, fieldB_pack _ _ _ _ _ _ h,
      fieldC_pack _ _ _ _ _ _ h, fieldD_pack _ _ _ _ _ _ h, fieldE_pack _ _ _ _ _ _ h, fieldF_pack _ _ _ _ _ _ h⟩
  · rintro ⟨rfl, rfl, rfl, rfl, rfl, rfl, rfl⟩
    exact pack_fields w

/-- The same for Format I, whose low half is the immediate (rule R81). -/
theorem packImm_eq_iff {op : Nat} {a : Fin 16} {imm : Scalar} {w : Word} (h : op < 256) :
    packImm op a imm = w ↔ opcodeOf w = op ∧ fieldAt w 20 = a ∧ fieldAt w 16 = 0 ∧ immOf w = imm := by
  have := w.isLt
  have := imm.isLt
  simp only [← BitVec.toNat_inj, Fin.ext_iff, packImm, opcodeOf, fieldAt, immOf, BitVec.toNat_ofNat, Fin.val_zero]
  omega

/-! Test (2) on the fields from some letter to `F`. -/

theorem lowZero_zero (w : Word) : lowZero w 0 = true := by
  simp [lowZero, Nat.mod_one]

theorem lowZero_four {w : Word} : lowZero w 4 = true ↔ fieldAt w 0 = 0 := by
  simp only [lowZero, fieldAt, beq_iff_eq, Fin.ext_iff, Fin.val_zero]
  omega

theorem lowZero_eight {w : Word} : lowZero w 8 = true ↔ fieldAt w 4 = 0 ∧ fieldAt w 0 = 0 := by
  simp only [lowZero, fieldAt, beq_iff_eq, Fin.ext_iff, Fin.val_zero]
  omega

theorem lowZero_twelve {w : Word} : lowZero w 12 = true ↔ fieldAt w 8 = 0 ∧ fieldAt w 4 = 0 ∧ fieldAt w 0 = 0 := by
  simp only [lowZero, fieldAt, beq_iff_eq, Fin.ext_iff, Fin.val_zero]
  omega

theorem lowZero_sixteen {w : Word} :
    lowZero w 16 = true ↔ fieldAt w 12 = 0 ∧ fieldAt w 8 = 0 ∧ fieldAt w 4 = 0 ∧ fieldAt w 0 = 0 := by
  simp only [lowZero, fieldAt, beq_iff_eq, Fin.ext_iff, Fin.val_zero]
  omega

/-- Test (3): field `D` is the validate bit. -/
theorem validateField_eq_iff {d : Fin 16} {v : Bool} : d = validateField v ↔ d.val ≤ 1 ∧ (d.val == 1) = v := by
  revert d v; decide

/-! When the tests of rule R85 pass. -/

theorem plain_eq_ok {w : Word} {k : Nat} {i j : Instr} : plain w k i = .ok j ↔ lowZero w k = true ∧ i = j := by
  unfold plain; split_ifs <;> simp_all

theorem distinctDest_eq_ok {w : Word} {k : Nat} {i j : Instr} :
    distinctDest w k i = .ok j ↔ lowZero w k = true ∧ i.wellFormed = true ∧ i = j := by
  unfold distinctDest; split_ifs <;> simp_all

theorem withValidate_eq_ok {w : Word} {i : Bool → Instr} {j : Instr} :
    withValidate w i = .ok j ↔ lowZero w 8 = true ∧ ∃ v, fieldAt w 8 = validateField v ∧ i v = j := by
  simp only [validateField_eq_iff]
  unfold withValidate; split_ifs <;> simp_all

/-! The later tests of rule R85 never answer with the first. -/

theorem plain_ne_opcode (w : Word) (k : Nat) (i : Instr) : plain w k i ≠ .error .opcode := by
  unfold plain; split_ifs <;> simp

theorem distinctDest_ne_opcode (w : Word) (k : Nat) (i : Instr) : distinctDest w k i ≠ .error .opcode := by
  unfold distinctDest; split_ifs <;> simp

theorem withValidate_ne_opcode (w : Word) (i : Bool → Instr) : withValidate w i ≠ .error .opcode := by
  unfold withValidate; split_ifs <;> simp

end Sys2Proof

namespace Sys2Proof.Machine

/-- The core's turn on an illegal pending word (rule R86). -/
theorem coreTurn_of_illegal {s : State} {why : Illegal} (hbusy : s.status.busy = true)
    (hwhy : decode s.pend = .error why) : coreTurn s = .next (s.raise .cmdIllegal) := by
  simp only [coreTurn, coreStep, hbusy, hwhy, if_true]

end Sys2Proof.Machine
end

section
/-! The statements of 30_encoding.md. -/

open Sys2Proof Sys2Proof.Machine

/-- Settles O1: the fields of the encoded word are the operands, and they pass the tests of the command's row. -/
theorem decodeOfEncode : Obligations.DecodeOfEncode := by
  intro i hi
  generalize hw : encode i = w
  cases i
  case li =>
    obtain ⟨hop, ha, hb, himm⟩ := (packImm_eq_iff (by decide)).1 hw
    simp [decode, hop, ha, hb, himm]
  all_goals obtain ⟨hop, ha, hb, hc, hd, he, hf⟩ := (pack_eq_iff (by decide)).1 hw
  case pdiv | xgcd | sugi =>
    simp [decode, hop, ha, hb, hc, hd, he, hf, distinctDest_eq_ok, lowZero_zero, lowZero_four, lowZero_eight, hi]
  case eloc | bmloc =>
    simp [decode, hop, ha, hb, hc, hd, he, hf, withValidate_eq_ok, lowZero_eight]
  all_goals
    simp [decode, hop, ha, hb, hc, hd, he, hf, plain_eq_ok, lowZero_eight, lowZero_twelve, lowZero_sixteen]

/-- Settles O2: in each row the tests leave the opcode and the fields the encoder writes. -/
theorem encodeOfDecode : Obligations.EncodeOfDecode := by
  intro w i h
  simp only [decode] at h
  split at h <;> rename_i hop
  case h_1 => -- LI
    split_ifs at h with hb
    cases h
    exact ⟨rfl, (packImm_eq_iff (by decide)).2 ⟨hop, rfl, hb, rfl⟩⟩
  case h_19 | h_25 | h_26 => -- PDIV, XGCD, SUGI
    obtain ⟨hzero, hi, rfl⟩ := distinctDest_eq_ok.1 h
    refine ⟨hi, (pack_eq_iff (by decide)).2 ?_⟩
    simp_all [lowZero_four, lowZero_eight]
  case h_27 | h_28 => -- ELOC, BMLOC
    obtain ⟨hzero, v, hd, rfl⟩ := withValidate_eq_ok.1 h
    exact ⟨rfl, (pack_eq_iff (by decide)).2 ⟨hop, rfl, rfl, rfl, hd, lowZero_eight.1 hzero⟩⟩
  case h_35 => cases h -- no opcode of rule R82
  all_goals
    obtain ⟨hzero, rfl⟩ := plain_eq_ok.1 h
    refine ⟨rfl, (pack_eq_iff (by decide)).2 ?_⟩
    simpa [hop, lowZero_eight, lowZero_twelve, lowZero_sixteen] using hzero

/-- Settles O4: the tests after the first refuse a word for another reason, and the core's turn ends an illegal word
with a cause that is not of the configuration kind, so FATAL stays. -/
theorem illegalWordsEndWithCmdIllegal : Obligations.IllegalWordsEndWithCmdIllegal := by
  refine ⟨fun w => ?_, fun s why hnext hbusy hwhy => ⟨s.takeTurn.raise .cmdIllegal, ?_, rfl, ?_⟩⟩
  · simp only [decode]
    split <;> rename_i hop
    case h_1 => split_ifs <;> simp [hop] -- LI
    case h_35 => simp_all -- no opcode of rule R82
    all_goals simp [hop, plain_ne_opcode, distinctDest_ne_opcode, withValidate_ne_opcode]
  · rw [step_of_coreNext hnext]
    exact coreTurn_of_illegal hbusy hwhy
  · have hkind : (Cause.cmdIllegal.kind == 2) = false := by decide
    simp [State.raise, hkind, State.takeTurn]

/-- Settles O3: the decoder, run on the fifteen words. -/
theorem workedEncodings : Obligations.WorkedEncodings := by
  unfold Obligations.WorkedEncodings
  decide
end

section
/-! SUPPORT. The data movement commands (40_data_movement.md): what the range tests of the loads and stores answer, what a
store leaves and a load reads, lanes in reversed order, and the degree and trimming of a value. -/

namespace Sys2Proof.Machine

/-! The range tests, integers without wrap (20_memory.md rule R66). -/

theorem bufRange_of_le {addr n : Nat} (h : addr + n ≤ 1024) : bufRange addr n = .ok () :=
  require_eq_ok.2 (decide_eq_true h)

theorem bufRange_of_gt {addr n : Nat} (h : addr + n > 1024) : bufRange addr n = .error .cmdOperand :=
  require_eq_error.2 ⟨decide_eq_false h.not_ge, rfl⟩

theorem State.loadBytes_of_le {s : State} {a b : RIx} (hlen : (s.getR b).toNat ≤ 256)
    (hrange : (s.getR a).toNat + (s.getR b).toNat ≤ 1024) :
    s.loadBytes a b = .ok (s.memRead (s.getR a).toNat (s.getR b).toNat) := by
  simp [State.loadBytes, State.uint, Config.plenMax, hlen, bufRange_of_le hrange]

theorem State.loadBytes_of_gt {s : State} {a b : RIx}
    (h : (s.getR b).toNat > 256 ∨ (s.getR a).toNat + (s.getR b).toNat > 1024) :
    s.loadBytes a b = .error .cmdOperand := by
  obtain hlen | hlen := Nat.lt_or_ge 256 (s.getR b).toNat
  · simp [State.loadBytes, State.uint, Config.plenMax, hlen.not_ge]
  · have hrange := h.resolve_left hlen.not_gt
    simp [State.loadBytes, State.uint, Config.plenMax, hlen, bufRange_of_gt hrange]

theorem State.storeBytes_of_le {s : State} {b : RIx} {vs : List Byte}
    (h : (s.getR b).toNat + vs.length ≤ 1024) : s.storeBytes b vs = .ok (s.memWrite (s.getR b).toNat vs) := by
  simp [State.storeBytes, State.uint, bufRange_of_le h]

theorem State.storeBytes_of_gt {s : State} {b : RIx} {vs : List Byte}
    (h : (s.getR b).toNat + vs.length > 1024) : s.storeBytes b vs = .error .cmdOperand := by
  simp [State.storeBytes, State.uint, bufRange_of_gt h]

/-! A load whose range tests pass. -/

theorem exec_ldp_of_loadBytes {s : State} {d : PIx} {a b : RIx} {vs : List Byte} (h : s.loadBytes a b = .ok vs) :
    exec (.ldp d a b) s = .next (s.setP d vs.reverse).complete := by
  rw [exec, execLdp, h]
  rfl

theorem exec_ldl_of_loadBytes {s : State} {d : PIx} {a b : RIx} {vs : List Byte} (h : s.loadBytes a b = .ok vs) :
    exec (.ldl d a b) s = .next (s.setP d vs).complete := by
  rw [exec, execLdl, h]
  rfl

/-! The order of the lanes. -/

theorem coef_reverse {p : Poly} {j : Nat} (h : j < p.length) : coef p.reverse j = coef p (p.length - 1 - j) := by
  rw [coef_of_lt (by simpa using h), coef_of_lt (by omega), List.getElem_reverse]

theorem coef_memRead (s : State) (a : Nat) {n j : Nat} (h : j < n) : coef (s.memRead a n) j = s.bufByte (a + j) := by
  rw [State.memRead, coef_map_range, if_pos h]

theorem coef_reverse_memRead (s : State) (a : Nat) {n j : Nat} (h : j < n) :
    coef (s.memRead a n).reverse (n - 1 - j) = s.bufByte (a + j) := by
  rw [coef_reverse (by rw [s.length_memRead]; omega), s.length_memRead, coef_memRead s a (by omega)]
  congr 2; omega

/-! The two stores differ in the sequence they write only. -/

/-- A command that stores the bytes `f 0, …, f (n - 1)` within `BUF` completes and changes nothing else. -/
theorem exec_store_completes {i : Instr} {s : State} {b : RIx} {vs : List Byte} {n : Nat} {f : Nat → Byte}
    (hexec : exec i s = s.perform (s.storeBytes b vs)) (hn : vs.length = n) (hf : ∀ j, j < n → coef vs j = f j)
    (hrange : (s.getR b).toNat + n ≤ 1024) :
    ∃ t, exec i s = .next t ∧ t.result = .ok ∧
      (∀ j, j < n → t.bufByte ((s.getR b).toNat + j) = f j) ∧
      (∀ x, x < (s.getR b).toNat ∨ (s.getR b).toNat + n ≤ x → t.bufByte x = s.bufByte x) ∧
      SameR s t ∧ SameP s t ∧ t.flags = s.flags ∧ t.ncorr = s.ncorr ∧ t.einfo = s.einfo ∧ SameControl s t ∧
      t.status.fatal = s.status.fatal := by
  subst hn
  rw [State.storeBytes_of_le hrange] at hexec
  refine ⟨_, hexec, rfl, fun j hj => ?_, fun x hx => s.bufByte_memWrite_outside hx, fun _ => rfl, fun _ => rfl, rfl, rfl,
    rfl, ⟨rfl, rfl, rfl, rfl, rfl, rfl, rfl, rfl, rfl, rfl, rfl⟩, rfl⟩
  rw [State.bufByte_complete, s.bufByte_memWrite_inside hj, ← coef_of_lt hj, hf j hj]

/-- After a store of `vs` the bytes at its address and of its length are `vs`. -/
theorem State.loadBytes_memWrite {s : State} {b c : RIx} {vs : List Byte} (hlen : vs.length ≤ 256)
    (hrange : (s.getR b).toNat + vs.length ≤ 1024) (hc : (s.getR c).toNat = vs.length) :
    (s.memWrite (s.getR b).toNat vs).complete.loadBytes b c = .ok vs := by
  rw [← hc] at hlen hrange
  calc (s.memWrite (s.getR b).toNat vs).complete.loadBytes b c
      = .ok ((s.memWrite (s.getR b).toNat vs).memRead (s.getR b).toNat (s.getR c).toNat) :=
        State.loadBytes_of_le hlen hrange
    _ = .ok vs := by rw [hc, State.memRead_memWrite]

/-! The degree and the trimmed value. -/

theorem deg_eq_of_top {p : Poly} {k : Nat} (hk : coef p k ≠ 0) (habove : ∀ i, k < i → coef p i = 0) : deg p = k := by
  have hlt : deg p < (k + 1 : Nat) := deg_lt_of_coef habove
  have hge : ¬ deg p < k := fun h => hk (coef_eq_zero_of_deg_lt h)
  omega

theorem trimmed_trim (p : Poly) : Trimmed (trim p) :=
  or_iff_not_imp_left.2 fun h => by rw [coef_trim]; exact coef_top_trim h

end Sys2Proof.Machine
end

section
/-! The statements of 40_data_movement.md. -/

open Sys2Proof Sys2Proof.Machine

/-- Settles O11: the bytes read are the lanes of LDL as they stand and those of LDP reversed; the range tests fail on the
complement of the range. -/
theorem loadsReadBuffer : Obligations.LoadsReadBuffer := by
  intro s d a b
  refine ⟨decodeOfEncode (.ldp d a b) rfl, decodeOfEncode (.ldl d a b) rfl, fun hlen hrange => ?_, fun hfail => ?_⟩
  · have hload := State.loadBytes_of_le hlen hrange
    exact ⟨⟨_, exec_ldp_of_loadBytes hload, by simp, fun _ => coef_reverse_memRead s _⟩,
      ⟨_, exec_ldl_of_loadBytes hload, by simp, fun _ => coef_memRead s _⟩⟩
  · rw [exec, exec, execLdp, execLdl, State.loadBytes_of_gt hfail]
    exact ⟨rfl, rfl⟩

/-- Settles O12: both stores write one sequence, STP's lanes being reversed, and the load reverses them again. -/
theorem storesWriteBuffer : Obligations.StoresWriteBuffer := by
  refine ⟨fun s a b => ⟨decodeOfEncode (.stp a b) rfl, decodeOfEncode (.stl a b) rfl, fun hrange => ?_, fun hfail => ?_⟩,
    fun s a d b c hlen hrange hc => ?_⟩
  · exact ⟨exec_store_completes rfl List.length_reverse (fun _ => coef_reverse) hrange,
      exec_store_completes rfl rfl (fun _ _ => rfl) hrange⟩
  · have hrev : (s.getR b).toNat + (s.getP a).reverse.length > 1024 := by rwa [List.length_reverse]
    rw [exec, exec, execStp, execStl, State.storeBytes_of_gt hfail, State.storeBytes_of_gt hrev]
    exact ⟨rfl, rfl⟩
  · constructor
    · rw [← List.length_reverse] at hlen hrange hc
      have hload := State.loadBytes_memWrite hlen hrange hc
      rw [exec, execStp, State.storeBytes_of_le hrange]
      exact ⟨_, _, rfl, exec_ldp_of_loadBytes hload, rfl, by simp⟩
    · have hload := State.loadBytes_memWrite hlen hrange hc
      rw [exec, execStl, State.storeBytes_of_le hrange]
      exact ⟨_, _, rfl, exec_ldl_of_loadBytes hload, rfl, by simp⟩

/-- Settles O10: the operands of the word are those the encoder packs, and the row's only test is on field `B`. -/
theorem liLoadsImmediate : Obligations.LiLoadsImmediate := by
  intro s d b x y z u imm
  refine ⟨fun hb => ?_, decodeOfEncode (.li d imm) rfl, rfl⟩
  have hop : opcodeOf (pack 0x01 d b x y z u) = 0x01 := opcodeOf_pack _ _ _ _ _ _ (by decide)
  have hB : fieldAt (pack 0x01 d b x y z u) 16 = b := fieldB_pack _ _ _ _ _ _ (by decide)
  simp [decode, hop, hB, hb]

/-- Settles O13: the zero polynomial has degree -1, which is 0xFFFF modulo 65536, and any other the index of its top
lane. -/
theorem movesAndMeasures : Obligations.MovesAndMeasures := by
  intro s d a r
  refine ⟨decodeOfEncode (.pmov d a) rfl, decodeOfEncode (.plen r a) rfl, decodeOfEncode (.pdeg r a) rfl,
    decodeOfEncode (.ptrim d a) rfl, rfl, rfl, fun hzero => ?_, fun k hk habove => ?_,
    ⟨_, rfl, trimmed_trim _, coef_trim _⟩⟩
  · rw [exec, execPdeg, deg_eq_neg_one.2 hzero]
    rfl
  · rw [exec, execPdeg, deg_eq_of_top hk habove, BitVec.ofInt_natCast]
    rfl
end

section
/-! SUPPORT. The field of 41_field.md: under a primitive polynomial multiplying by a nonzero `x` is multiplying by
`ALPHA` as often as `LOG[x]` says, so the laws of the product are laws of a repeated linear map; and a scalar register
that holds a field element, read and written back. -/

namespace Sys2Proof.Machine
open Function

/-! The product and the inverse by the tables (rules R122, R123). -/

/-- The lookup needs no reduction of the exponent: the powers have the period 255. -/
theorem expAt_built_eq_iterate {c : Config} (hc : primitive c = true) (n : Nat) :
    (builtTables c).expAt n = (xtime c)^[n] 1 := by
  rw [expAt_built, ← minimalPeriod_of_primitive hc, iterate_mod_minimalPeriod_eq]

theorem iterate_xtime_xor (c : Config) (i : Nat) (x y : Byte) :
    (xtime c)^[i] (x ^^^ y) = (xtime c)^[i] x ^^^ (xtime c)^[i] y :=
  Semiconj₂.iterate (op := (· ^^^ ·)) (xtime_xor c) i x y

theorem gfMul_comm (t : Tables) (x y : Byte) : gfMul t x y = gfMul t y x := by
  simp only [gfMul, or_comm, Nat.add_comm]

theorem gfMul_built_eq_iterate {c : Config} (hc : primitive c = true) {x : Byte} (hx : x ≠ 0) (y : Byte) :
    gfMul (builtTables c) x y = (xtime c)^[(builtTables c).logAt x] y := by
  by_cases hy : y = 0
  · rw [hy, gfMul_zero, iterate_xtime_zero]
  · rw [gfMul_built hc hx hy, iterate_add_apply, (logAt_built_spec hc hy).2]

theorem gfMul_built_one {c : Config} (hc : primitive c = true) (x : Byte) : gfMul (builtTables c) x 1 = x := by
  by_cases hx : x = 0
  · rw [hx, zero_gfMul]
  · rw [gfMul_built_eq_iterate hc hx, (logAt_built_spec hc hx).2]

/-- With the middle factor on the right, both sides apply the maps of `x` and of `z` to it. -/
theorem gfMul_built_assoc {c : Config} (hc : primitive c = true) (x y z : Byte) :
    gfMul (builtTables c) (gfMul (builtTables c) x y) z = gfMul (builtTables c) x (gfMul (builtTables c) y z) := by
  by_cases hx : x = 0
  · rw [hx, zero_gfMul, zero_gfMul, zero_gfMul]
  by_cases hz : z = 0
  · rw [hz, gfMul_zero, gfMul_zero, gfMul_zero]
  rw [gfMul_comm _ _ z, gfMul_comm _ y z]
  simp only [gfMul_built_eq_iterate hc hx, gfMul_built_eq_iterate hc hz]
  exact Commute.iterate_iterate_self (xtime c) _ _ y

theorem gfMul_built_gfAdd {c : Config} (hc : primitive c = true) (x y z : Byte) :
    gfMul (builtTables c) x (gfAdd y z) = gfAdd (gfMul (builtTables c) x y) (gfMul (builtTables c) x z) := by
  by_cases hx : x = 0
  · rw [hx, zero_gfMul, zero_gfMul, zero_gfMul, gfAdd_self]
  · simp only [gfMul_built_eq_iterate hc hx, gfAdd, iterate_xtime_xor]

/-- The exponents of `x` and of its inverse add up to the period. -/
theorem gfMul_built_gfInv {c : Config} (hc : primitive c = true) {x : Byte} (hx : x ≠ 0) :
    gfMul (builtTables c) x (gfInv (builtTables c) x) = 1 := by
  obtain ⟨hlt, -⟩ := logAt_built_spec hc hx
  rw [gfMul_built_eq_iterate hc hx, gfInv, expAt_built_eq_iterate hc, ← iterate_add_apply,
    Nat.add_sub_cancel' hlt.le]
  exact (primitive_iff_powers.1 hc).2

theorem gfInv_built_one {c : Config} (hc : primitive c = true) : gfInv (builtTables c) 1 = 1 := by
  rw [← gfMul_built_one hc (gfInv _ 1), gfMul_comm, gfMul_built_gfInv hc (by decide)]

theorem gfMul_built_ne_zero {c : Config} (hc : primitive c = true) {x y : Byte} (hx : x ≠ 0) (hy : y ≠ 0) :
    gfMul (builtTables c) x y ≠ 0 := by
  rw [gfMul_built hc hx hy]
  exact iterate_xtime_one_ne_zero hc _

/-! The power (rule R125), through `alpha`, which depends on its exponent modulo 255 only. -/

theorem alpha_natCast (t : Tables) (n : Nat) : t.alpha n = t.expAt n := expAt_mod t n

theorem alpha_congr (t : Tables) {i j : Int} (h : i ≡ j [ZMOD 255]) : t.alpha i = t.alpha j := by
  rw [Tables.alpha, Tables.alpha, h]

theorem alpha_logAt_built {c : Config} (hc : primitive c = true) {a : Byte} (ha : a ≠ 0) :
    (builtTables c).alpha ((builtTables c).logAt a) = a := by
  rw [alpha_natCast, expAt_built_eq_iterate hc, (logAt_built_spec hc ha).2]

theorem logAt_built_two {c : Config} (hc : primitive c = true) : (builtTables c).logAt 2 = 1 := by
  obtain ⟨hlt, hpow⟩ := logAt_built_spec hc (a := 2) (by decide)
  exact iterate_xtime_one_inj hc hlt (by decide) (hpow.trans (iterate_xtime_one_of_lt c (i := 1) (by decide)).symm)

theorem gfPow_of_ne_zero (t : Tables) {a : Byte} (ha : a ≠ 0) (n : Int) : gfPow t a n = t.alpha (t.logAt a * n) :=
  if_pos ha

theorem zero_gfPow (t : Tables) (n : Int) : gfPow t 0 n = if 0 < n then 0 else 1 := if_neg (not_not.2 rfl)

theorem gfPow_built_zero (c : Config) (a : Byte) : gfPow (builtTables c) a 0 = 1 := by
  by_cases ha : a = 0
  · rw [ha, zero_gfPow, if_neg (lt_irrefl 0)]
  · rw [gfPow_of_ne_zero _ ha, Int.mul_zero]
    exact expAt_built c 0

theorem gfPow_built_one {c : Config} (hc : primitive c = true) (a : Byte) : gfPow (builtTables c) a 1 = a := by
  by_cases ha : a = 0
  · rw [ha, zero_gfPow, if_pos one_pos]
  · rw [gfPow_of_ne_zero _ ha, Int.mul_one, alpha_logAt_built hc ha]

theorem gfPow_built_neg_one {c : Config} (hc : primitive c = true) {a : Byte} (ha : a ≠ 0) :
    gfPow (builtTables c) a (-1) = gfInv (builtTables c) a := by
  obtain ⟨hlt, -⟩ := logAt_built_spec hc ha
  rw [gfPow_of_ne_zero _ ha, gfInv, ← alpha_natCast]
  refine alpha_congr _ ?_
  rw [Int.ModEq]
  omega

theorem gfPow_add_period (t : Tables) {a : Byte} (ha : a ≠ 0) (n : Int) : gfPow t a (n + 255) = gfPow t a n := by
  rw [gfPow_of_ne_zero t ha, gfPow_of_ne_zero t ha, Int.mul_add]
  exact alpha_congr t (Int.add_mul_emod_self_right _ _ _)

theorem gfPow_built_two {c : Config} (hc : primitive c = true) (i : Int) :
    gfPow (builtTables c) 2 i = (builtTables c).alpha i := by
  rw [gfPow_of_ne_zero _ (by decide), logAt_built_two hc, Nat.cast_one, Int.one_mul]

/-! A register that holds a field element (00_scope.md rules R9, R12). -/

theorem zext16_setWidth_of_le {v : Scalar} (h : v.toNat ≤ 255) : zext16 (v.setWidth 8) = v := by
  refine BitVec.eq_of_toNat_eq ?_
  simp only [zext16, BitVec.toNat_setWidth]
  omega

theorem zext16_gfAdd (x y : Byte) : zext16 (gfAdd x y) = zext16 x ^^^ zext16 y := BitVec.setWidth_xor

theorem setWidth_eq_zero_iff_of_le {v : Scalar} (h : v.toNat ≤ 255) : v.setWidth 8 = 0 ↔ v = 0 :=
  ⟨fun h0 => by rw [← zext16_setWidth_of_le h, h0]; rfl, fun h0 => by rw [h0]; rfl⟩

theorem setWidth_ne_zero_of_le {v : Scalar} (h : v.toNat ≤ 255) (hv : v ≠ 0) : v.setWidth 8 ≠ 0 :=
  mt (setWidth_eq_zero_iff_of_le h).1 hv

theorem State.fe_of_eq_zero {s : State} {i : RIx} (h : s.getR i = 0) : s.fe i = .ok 0 :=
  State.fe_eq_ok.2 (by rw [h]; decide)

/-- Two operands are read in turn, and either fails with the same cause. -/
theorem State.fe_fe_of_gt {s : State} {a b : RIx} {f : Byte → Byte → Except Cause State}
    (h : (s.getR a).toNat > 255 ∨ (s.getR b).toNat > 255) :
    (do let x ← s.fe a; let y ← s.fe b; f x y) = .error .cmdOperand := by
  obtain ha | ha := Nat.lt_or_ge 255 (s.getR a).toNat
  · rw [State.fe_of_gt ha, bind_error]
  · rw [State.fe_of_le ha, bind_ok, State.fe_of_gt (h.resolve_left ha.not_gt), bind_error]

/-! The commands with a test for 0, when it passes. -/

theorem exec_gfinv_of_fe {s : State} {d a : RIx} {x : Byte} (hfe : s.fe a = .ok x) (hx : x ≠ 0) :
    exec (.gfinv d a) s = .next (s.setR d (zext16 (gfInv s.tables x))).complete := by
  rw [exec, execGfinv, hfe, bind_ok, decide_eq_true hx]
  rfl

theorem exec_gflog_of_fe {s : State} {d a : RIx} {x : Byte} (hfe : s.fe a = .ok x) (hx : x ≠ 0) :
    exec (.gflog d a) s = .next (s.setR d (BitVec.ofNat 16 (s.tables.logAt x))).complete := by
  rw [exec, execGflog, hfe, bind_ok, decide_eq_true hx]
  rfl

theorem exec_gfpow_of_fe {s : State} {d a b : RIx} {x : Byte} (hfe : s.fe a = .ok x)
    (hdom : ¬(x = 0 ∧ (s.getR b).toInt < 0)) :
    exec (.gfpow d a b) s = .next (s.setR d (zext16 (gfPow s.tables x (s.getR b).toInt))).complete := by
  rw [exec, execGfpow, hfe, bind_ok, State.sint, decide_eq_true hdom]
  rfl

end Sys2Proof.Machine
end

section
/-! The statements of 41_field.md. -/

open Sys2Proof Sys2Proof.Machine

/-- Settles O15: the formulas are the definitions, and multiplying by a nonzero `x` is a power of a linear map whose
255th power fixes 1. -/
theorem tableArithmeticIsAField : Obligations.TableArithmeticIsAField := by
  rintro c _ x y z hc rfl
  exact ⟨rfl, fun _ => rfl, gfInv_built_one hc, gfMul_comm _ x y, gfMul_built_assoc hc x y z,
    gfMul_built_gfAdd hc x y z, gfMul_built_one hc x, gfMul_built_gfInv hc,
    fun h => or_iff_not_and_not.2 fun ⟨hx, hy⟩ => gfMul_built_ne_zero hc hx hy h⟩

/-- Settles O19: the failure is tested before the power is taken, and its consequences are those of `alpha` at the
multiples of `LOG[a]`. -/
theorem fieldPowerAndAntilog : Obligations.FieldPowerAndAntilog := by
  refine ⟨fun s d a b => ⟨decodeOfEncode (.gfpow d a b) rfl, decodeOfEncode (.gfexp d a) rfl, fun hle hne => ?_,
      fun h0 hn => ?_, fun h0 hn => ?_, fun h0 hn => ?_, fun hgt => ?_, rfl, fun ⟨hc, htab⟩ => ?_⟩,
    fun c a n i hc => ⟨gfPow_built_zero c a, gfPow_built_one hc a, gfPow_built_neg_one hc,
      fun ha => gfPow_add_period _ ha n, gfPow_built_two hc i⟩⟩
  · have hx := setWidth_ne_zero_of_le hle hne
    rw [exec_gfpow_of_fe (State.fe_of_le hle) fun h => hx h.1, gfPow_of_ne_zero _ hx]
    rfl
  · rw [exec_gfpow_of_fe (State.fe_of_eq_zero h0) fun h => h.2.not_gt hn, zero_gfPow, if_pos hn]
    rfl
  · rw [exec_gfpow_of_fe (State.fe_of_eq_zero h0) (by rw [hn]; decide), zero_gfPow, hn]
    rfl
  · simp [exec, execGfpow, State.fe_of_eq_zero h0, State.sint, hn]
  · rw [exec, execGfpow, State.fe_of_gt hgt]
    rfl
  · rw [htab, expAt_built_eq_iterate hc]
    exact iterate_xtime_one_ne_zero hc _

/-- Settles O17: below 256 a register is its low byte extended, so XOR and the test for 0 on bytes are those on
registers. -/
theorem fieldAddAndMultiply : Obligations.FieldAddAndMultiply := by
  intro s d a b
  refine ⟨decodeOfEncode (.gfadd d a b) rfl, decodeOfEncode (.gfmul d a b) rfl, fun ha hb => ⟨?_, ?_⟩, fun hgt => ?_⟩
  · rw [exec, execGfadd, State.fe_of_le ha, State.fe_of_le hb]
    simp only [bind_ok, pure_eq_ok, State.perform_ok, zext16_gfAdd, zext16_setWidth_of_le ha, zext16_setWidth_of_le hb]
  · rw [exec, execGfmul, State.fe_of_le ha, State.fe_of_le hb]
    simp only [bind_ok, pure_eq_ok, State.perform_ok, gfMul, setWidth_eq_zero_iff_of_le ha, setWidth_eq_zero_iff_of_le hb,
      apply_ite zext16]
    rfl
  · rw [exec, exec, execGfadd, execGfmul, State.fe_fe_of_gt hgt, State.fe_fe_of_gt hgt]
    exact ⟨rfl, rfl⟩

/-- Settles O18: both commands read the operand and test it for 0 before the lookup, and `LOG` of a nonzero byte is
below the period. -/
theorem fieldInverseAndLogarithm : Obligations.FieldInverseAndLogarithm := by
  intro s d a
  refine ⟨decodeOfEncode (.gfinv d a) rfl, decodeOfEncode (.gflog d a) rfl, fun hle hne => ?_, fun hgt => ?_,
    fun h0 => ?_, fun ⟨hc, htab⟩ hne hle => ?_⟩
  · have hx := setWidth_ne_zero_of_le hle hne
    rw [expAt_mod]
    exact ⟨exec_gfinv_of_fe (State.fe_of_le hle) hx, exec_gflog_of_fe (State.fe_of_le hle) hx⟩
  · rw [exec, exec, execGfinv, execGflog, State.fe_of_gt hgt]
    exact ⟨rfl, rfl⟩
  · rw [exec, exec, execGfinv, execGflog, State.fe_of_eq_zero h0]
    exact ⟨rfl, rfl⟩
  · rw [htab]
    exact Nat.le_of_lt_succ (logAt_built_spec hc (setWidth_ne_zero_of_le hle hne)).1
end

section
/-! SUPPORT. The polynomial functions of 42_polynomial.md, coefficient by coefficient: laws of the XOR sum and of the
convolution, the product's degree, Horner's method as a sum of terms, and the loop of the long division. -/

namespace Sys2Proof.Machine

/-! The XOR of bytes, in the spelling of 0 that `coef` uses, and the XOR sum. -/

theorem xor_zero_byte (x : Byte) : x ^^^ 0 = x := BitVec.xor_zero

theorem zero_xor_byte (x : Byte) : 0 ^^^ x = x := BitVec.zero_xor

theorem xor_self_byte (x : Byte) : x ^^^ x = 0 := BitVec.xor_self

theorem xor_xor_cancel_right (x y z : Byte) : (x ^^^ z) ^^^ (y ^^^ z) = x ^^^ y := by
  rw [BitVec.xor_comm y, BitVec.xor_assoc, ← BitVec.xor_assoc z, xor_self_byte, zero_xor_byte]

theorem xorSum_succ_left (n : Nat) (f : Nat → Byte) : xorSum (n + 1) f = f 0 ^^^ xorSum n fun i => f (i + 1) := by
  induction n with
  | zero => exact BitVec.xor_comm 0 (f 0)
  | succ n ih => rw [xorSum_succ, ih, xorSum_succ, BitVec.xor_assoc]

theorem xorSum_xor (n : Nat) (f g : Nat → Byte) : (xorSum n fun i => f i ^^^ g i) = xorSum n f ^^^ xorSum n g := by
  induction n with
  | zero => exact (xor_self_byte 0).symm
  | succ n ih => rw [xorSum_succ, xorSum_succ, xorSum_succ, ih]; ac_rfl

/-- A sum with one term. -/
theorem xorSum_ite_eq (n k : Nat) (v : Byte) : (xorSum n fun i => if i = k then v else 0) = if k < n then v else 0 := by
  induction n with
  | zero => rfl
  | succ n ih =>
    rw [xorSum_succ, ih]
    obtain hlt | rfl | hgt := Nat.lt_trichotomy n k
    · rw [if_neg (by omega), if_neg (by omega), if_neg (by omega), xor_zero_byte]
    · rw [if_neg (by omega), if_pos rfl, if_pos (by omega), zero_xor_byte]
    · rw [if_pos hgt, if_neg (by omega), if_pos (by omega), xor_zero_byte]

/-! The product of field elements over sums, and the powers with natural exponents. -/

theorem gfMul_built_xor_left {c : Config} (hc : primitive c = true) (x y z : Byte) :
    gfMul (builtTables c) (x ^^^ y) z = gfMul (builtTables c) x z ^^^ gfMul (builtTables c) y z := by
  rw [gfMul_comm, gfMul_comm _ x, gfMul_comm _ y]
  exact gfMul_built_gfAdd hc z x y

theorem gfMul_built_xorSum_left {c : Config} (hc : primitive c = true) (n : Nat) (f : Nat → Byte) (x : Byte) :
    gfMul (builtTables c) (xorSum n f) x = xorSum n fun i => gfMul (builtTables c) (f i) x := by
  induction n with
  | zero => exact zero_gfMul _ x
  | succ n ih => rw [xorSum_succ, xorSum_succ, gfMul_built_xor_left hc, ih]

theorem gfPow_built_succ {c : Config} (hc : primitive c = true) (x : Byte) (n : Nat) :
    gfPow (builtTables c) x (n + 1 : Nat) = gfMul (builtTables c) (gfPow (builtTables c) x n) x := by
  by_cases hx : x = 0
  · rw [hx, gfMul_zero, zero_gfPow, if_pos (by omega)]
  · have hpow (m : Nat) : gfPow (builtTables c) x m = (xtime c)^[(builtTables c).logAt x * m] 1 := by
      rw [gfPow_of_ne_zero _ hx, ← Int.natCast_mul, alpha_natCast, expAt_built_eq_iterate hc]
    rw [gfMul_comm, gfMul_built_eq_iterate hc hx, hpow, hpow, ← Function.iterate_add_apply, Nat.mul_succ,
      Nat.add_comm]

theorem gfInv_built_ne_zero {c : Config} (hc : primitive c = true) {x : Byte} (hx : x ≠ 0) :
    gfInv (builtTables c) x ≠ 0 := by
  intro h0
  have hone := gfMul_built_gfInv hc hx
  rw [h0, gfMul_zero] at hone
  exact absurd hone (by decide)

/-! Coefficients and trimming. -/

/-- A polynomial is trimmed when its length is its degree and one more. -/
theorem trimmed_of_length {p : Poly} (h : (p.length : Int) = deg p + 1) : Trimmed p := by
  refine or_iff_not_imp_left.2 fun hne => ?_
  have hpos := List.length_pos_iff.2 hne
  have hidx : p.length - 1 = (deg p).toNat := by omega
  rw [hidx]
  exact coef_deg_ne_zero (by omega)

theorem coef_ne_zero_of_deg_eq {p : Poly} {m : Nat} (h : deg p = m) : coef p m ≠ 0 := by
  simpa only [h, Int.toNat_natCast] using coef_deg_ne_zero (p := p) (by omega)

theorem length_trim (p : Poly) : ((trim p).length : Int) = deg p + 1 := by
  rw [deg]; omega

theorem coef_map {f : Byte → Byte} (hf : f 0 = 0) (p : Poly) (i : Nat) : coef (p.map f) i = f (coef p i) := by
  rw [coef, coef, ← List.getD_map (f := f), hf]

theorem coef_replicate_append (k : Nat) (p : Poly) (i : Nat) :
    coef (List.replicate k 0 ++ p) i = if i < k then 0 else coef p (i - k) := by
  induction k generalizing i with
  | zero => rfl
  | succ k ih =>
    rw [List.replicate_succ, List.cons_append]
    cases i with
    | zero => rfl
    | succ i => simp only [coef_cons_succ, ih, Nat.succ_lt_succ_iff, Nat.succ_sub_succ]

/-- A lane put below `p` in the place of a 0 adds one term. -/
theorem coef_replicate_append_cons (k : Nat) (v : Byte) (p : Poly) (i : Nat) :
    coef (List.replicate k 0 ++ v :: p) i =
      coef (List.replicate (k + 1) 0 ++ p) i ^^^ if i = k then v else 0 := by
  rw [coef_replicate_append, coef_replicate_append]
  obtain hlt | rfl | hgt := Nat.lt_trichotomy i k
  · rw [if_pos hlt, if_pos (by omega), if_neg (by omega), xor_zero_byte]
  · rw [if_neg (by omega), if_pos (by omega), if_pos rfl, Nat.sub_self, coef_cons_zero, zero_xor_byte]
  · have hidx : i - k = i - (k + 1) + 1 := by omega
    rw [if_neg (by omega), if_neg (by omega), if_neg (by omega), xor_zero_byte, hidx, coef_cons_succ]

@[simp] theorem coef_polyScale (t : Tables) (p : Poly) (k : Byte) (i : Nat) :
    coef (polyScale t p k) i = gfMul t (coef p i) k := by
  rw [polyScale, coef_trim, coef_map (zero_gfMul t k)]

@[simp] theorem coef_polyDeriv (p : Poly) (i : Nat) :
    coef (polyDeriv p) i = if i % 2 = 0 then coef p (i + 1) else 0 := by
  rw [polyDeriv, coef_trim, coef_map_range]
  by_cases hlt : i < p.length - 1
  · rw [if_pos hlt]
  · rw [if_neg hlt, coef_of_ge (by omega), ite_self]

/-! The product (rule R143). -/

@[simp] theorem convolve_trim_left (t : Tables) (a b : Poly) : convolve t (trim a) b = convolve t a b := by
  funext k; simp only [convolve, coef_trim]

@[simp] theorem convolve_trim_right (t : Tables) (a b : Poly) : convolve t a (trim b) = convolve t a b := by
  funext k; simp only [convolve, coef_trim]

/-- Adding one term to a factor adds its row of products. -/
theorem convolve_add_term {c : Config} (hc : primitive c = true) {p p' : Poly} {k : Nat} {v : Byte}
    (hp : ∀ i, coef p' i = coef p i ^^^ if i = k then v else 0) (b : Poly) (j : Nat) :
    convolve (builtTables c) p' b j =
      convolve (builtTables c) p b j ^^^ if k ≤ j then gfMul (builtTables c) v (coef b (j - k)) else 0 := by
  have hterm (i : Nat) : gfMul (builtTables c) (coef p' i) (coef b (j - i)) =
      gfMul (builtTables c) (coef p i) (coef b (j - i)) ^^^
        if i = k then gfMul (builtTables c) v (coef b (j - k)) else 0 := by
    rw [hp, gfMul_built_xor_left hc]
    by_cases hi : i = k
    · rw [if_pos hi, if_pos hi, hi]
    · rw [if_neg hi, if_neg hi, zero_gfMul]
  simp only [convolve, hterm, xorSum_xor, xorSum_ite_eq, Nat.lt_succ_iff]

theorem convolve_eq_zero {t : Tables} {a b : Poly} {k : Nat} (h : ∀ i ≤ k, coef a i = 0 ∨ coef b (k - i) = 0) :
    convolve t a b k = 0 := by
  rw [convolve, ← xorSum_zero (k + 1)]
  refine xorSum_congr fun i hi => ?_
  obtain ha | hb := h i (by omega)
  · rw [ha, zero_gfMul]
  · rw [hb, gfMul_zero]

/-- The top coefficient of a product is the product of the top coefficients. -/
theorem convolve_top (t : Tables) {a b : Poly} {m n : Nat} (ha : deg a = m) (hb : deg b = n) :
    convolve t a b (m + n) = gfMul t (coef a m) (coef b n) := by
  have hterm : ∀ i < m + n + 1, gfMul t (coef a i) (coef b (m + n - i)) =
      if i = m then gfMul t (coef a m) (coef b n) else 0 := by
    intro i hi
    obtain hlt | rfl | hgt := Nat.lt_trichotomy i m
    · rw [if_neg (by omega), coef_eq_zero_of_deg_lt (p := b) (by omega), gfMul_zero]
    · rw [if_pos rfl, Nat.add_sub_cancel_left]
    · rw [if_neg (by omega), coef_eq_zero_of_deg_lt (p := a) (by omega), zero_gfMul]
  rw [convolve, xorSum_congr hterm, xorSum_ite_eq, if_pos (by omega)]

/-- The lanes left out are 0, so the product has the coefficients of the convolution at every index. -/
@[simp] theorem coef_polyMul (t : Tables) (a b : Poly) (k : Nat) : coef (polyMul t a b) k = convolve t a b k := by
  rw [polyMul]
  split_ifs with hzero
  · exact (convolve_eq_zero fun i _ => hzero.imp (fun ha => coef_eq_zero_of_deg_lt (by omega)) fun hb =>
      coef_eq_zero_of_deg_lt (by omega)).symm
  · rw [coef_map_range]
    split_ifs with hlt
    · rfl
    · refine (convolve_eq_zero fun i _ => ?_).symm
      obtain ha | hb : deg a < i ∨ deg b < (k - i : Nat) := by omega
      · exact .inl (coef_eq_zero_of_deg_lt ha)
      · exact .inr (coef_eq_zero_of_deg_lt hb)

theorem polyMul_of_zero {a b : Poly} (t : Tables) (h : deg a < 0 ∨ deg b < 0) : polyMul t a b = [] := if_pos h

theorem deg_polyMul {c : Config} (hc : primitive c = true) {a b : Poly} (ha : 0 ≤ deg a) (hb : 0 ≤ deg b) :
    deg (polyMul (builtTables c) a b) = deg a + deg b := by
  obtain ⟨m, hm⟩ := Int.eq_ofNat_of_zero_le ha
  obtain ⟨n, hn⟩ := Int.eq_ofNat_of_zero_le hb
  have htop : coef (polyMul (builtTables c) a b) (m + n) ≠ 0 := by
    rw [coef_polyMul, convolve_top _ hm hn]
    exact gfMul_built_ne_zero hc (coef_ne_zero_of_deg_eq hm) (coef_ne_zero_of_deg_eq hn)
  have hlen := length_polyMul (builtTables c) a b
  rw [if_neg (by omega)] at hlen
  rw [deg_eq_of_top htop fun i hi => coef_of_ge (by omega), hm, hn]
  exact Int.natCast_add m n

theorem trimmed_polyMul {c : Config} (hc : primitive c = true) (a b : Poly) :
    Trimmed (polyMul (builtTables c) a b) := by
  by_cases hzero : deg a < 0 ∨ deg b < 0
  · exact .inl (polyMul_of_zero _ hzero)
  · refine trimmed_of_length ?_
    rw [length_polyMul, if_neg hzero, deg_polyMul hc (by omega) (by omega)]
    omega

/-! Zero top lanes (rule R140 (a)). -/

@[simp] theorem polyAdd_trim (a b : Poly) : polyAdd (trim a) (trim b) = polyAdd a b := by
  rw [← trim_polyAdd (trim a), ← trim_polyAdd a]
  exact trim_congr fun i => by simp only [coef_polyAdd, coef_trim]

@[simp] theorem polyMul_trim (t : Tables) (a b : Poly) : polyMul t (trim a) (trim b) = polyMul t a b := by
  simp only [polyMul, deg_trim, convolve_trim_left, convolve_trim_right]

@[simp] theorem polyScale_trim (t : Tables) (p : Poly) (k : Byte) : polyScale t (trim p) k = polyScale t p k :=
  trim_congr fun i => by simp only [coef_map (f := (gfMul t · k)) (zero_gfMul t k), coef_trim]

@[simp] theorem polyDivmod_trim (t : Tables) (a b : Poly) : polyDivmod t (trim a) (trim b) = polyDivmod t a b := by
  simp only [polyDivmod, trim_trim, deg_trim, coef_trim]

@[simp] theorem polyDeriv_trim (p : Poly) : polyDeriv (trim p) = polyDeriv p := by
  have htrim (q : Poly) : trim (polyDeriv q) = polyDeriv q := trim_trim _
  rw [← htrim (trim p), ← htrim p]
  exact trim_congr fun i => by simp only [coef_polyDeriv, coef_trim]

/-! Horner's method (rule R149). -/

theorem polyEval_cons (t : Tables) (c : Byte) (p : Poly) (x : Byte) :
    polyEval t (c :: p) x = gfMul t (polyEval t p x) x ^^^ c := rfl

@[simp] theorem polyEval_trim (t : Tables) (p : Poly) (x : Byte) : polyEval t (trim p) x = polyEval t p x := by
  induction p with
  | nil => rfl
  | cons c p ih =>
    rw [trim_cons, polyEval_cons, ← ih]
    split_ifs with hzero
    · rw [hzero.1, hzero.2, xor_zero_byte]
      exact (zero_gfMul t x).symm
    · rw [polyEval_cons]

theorem polyEval_built_eq_xorSum {c : Config} (hc : primitive c = true) (p : Poly) (x : Byte) :
    polyEval (builtTables c) p x =
      xorSum p.length fun i => gfMul (builtTables c) (coef p i) (gfPow (builtTables c) x i) := by
  induction p with
  | nil => rfl
  | cons d p ih =>
    rw [polyEval_cons, ih, gfMul_built_xorSum_left hc, List.length_cons, xorSum_succ_left, BitVec.xor_comm]
    simp only [coef_cons_zero, coef_cons_succ, gfPow_built_succ hc, gfMul_built_assoc hc, Nat.cast_zero,
      gfPow_built_zero, gfMul_built_one hc]

/-! The long division (rule R147). -/

theorem coef_addShifted (t : Tables) {r b : Poly} {k : Nat} (hlen : k + b.length ≤ r.length) (v : Byte) (i : Nat) :
    coef (addShifted t r b k v) i = coef r i ^^^ if k ≤ i then gfMul t v (coef b (i - k)) else 0 := by
  by_cases hi : i < r.length
  · rw [coef_of_lt (by rwa [length_addShifted]), coef_of_lt hi]
    simp only [addShifted, List.getElem_mapIdx]
    by_cases hk : k ≤ i
    · rw [if_pos hk, if_neg (by omega), gfAdd]
    · rw [if_neg hk, if_pos (by omega), xor_zero_byte]
  · rw [coef_of_ge (by rw [length_addShifted]; omega), coef_of_ge (p := r) (by omega), coef_of_ge (p := b) (by omega),
      gfMul_zero, ite_self, xor_zero_byte]

/-- The loop moves terms from the rest to the quotient: the product of the quotient and the divisor, plus the rest,
stays the same. -/
theorem divLoop_invariant {c : Config} (hc : primitive c = true) {b : Poly} {db : Nat} (hb : b.length = db + 1)
    (li : Byte) (k : Nat) (q r : Poly) (hlen : k + db ≤ r.length) (j : Nat) :
    convolve (builtTables c) (divLoop (builtTables c) b db li k q r).1 b j ^^^
        coef (divLoop (builtTables c) b db li k q r).2 j =
      convolve (builtTables c) (List.replicate k 0 ++ q) b j ^^^ coef r j := by
  induction k generalizing q r with
  | zero => rfl
  | succ k ih =>
    rw [divLoop, ih _ _ (by rw [length_addShifted]; omega),
      convolve_add_term hc (coef_replicate_append_cons k _ q), coef_addShifted _ (by omega), xor_xor_cancel_right]

/-- Every turn clears the top coefficient of the rest, so the remainder has no coefficient from `db` on. -/
theorem coef_divLoop_snd {c : Config} (hc : primitive c = true) {b : Poly} {db : Nat} (hb : b.length = db + 1)
    {li : Byte} (hli : gfMul (builtTables c) li (coef b db) = 1) (k : Nat) (q r : Poly) (hlen : k + db ≤ r.length)
    (hr : ∀ j, k + db ≤ j → coef r j = 0) {j : Nat} (hj : db ≤ j) :
    coef (divLoop (builtTables c) b db li k q r).2 j = 0 := by
  induction k generalizing q r with
  | zero => exact hr j (by omega)
  | succ k ih =>
    rw [divLoop]
    refine ih _ _ (by rw [length_addShifted]; omega) fun i hi => ?_
    rw [coef_addShifted _ (by omega), if_pos (by omega)]
    obtain rfl | hgt := Nat.eq_or_lt_of_le hi
    · rw [Nat.add_sub_cancel_left, gfMul_built_assoc hc, hli, gfMul_built_one hc, xor_self_byte]
    · rw [hr i (by omega), coef_of_ge (p := b) (by omega), gfMul_zero, xor_self_byte]

/-- The loop puts its `k` quotient lanes below those it was given. -/
theorem coef_divLoop_fst (t : Tables) (b : Poly) (db : Nat) (li : Byte) (k : Nat) (q r : Poly) (i : Nat) :
    coef (divLoop t b db li k q r).1 (k + i) = coef q i := by
  induction k generalizing q r i with
  | zero => rw [divLoop, Nat.zero_add]
  | succ k ih => rw [divLoop, Nat.succ_add_eq_add_succ, ih, coef_cons_succ]

theorem polyDivmod_of_lt (t : Tables) {a b : Poly} (h : deg a < deg b) : polyDivmod t a b = ([], trim a) := by
  rw [polyDivmod, deg_trim, if_pos h]

/-- The quotient and the remainder of a dividend of degree `n + m` and a divisor of degree `m`, before trimming. -/
def divRun (t : Tables) (a b : Poly) (n m : Nat) : Poly × Poly :=
  divLoop t (trim b) m (gfInv t (coef b m)) (n + 1) [] (trim a)

theorem exists_polyDivmod_eq_divRun (t : Tables) {a b : Poly} (hb : 0 ≤ deg b) (h : deg b ≤ deg a) :
    ∃ n m : Nat, deg a = (n + m : Nat) ∧ deg b = m ∧
      polyDivmod t a b = (trim (divRun t a b n m).1, trim (divRun t a b n m).2) := by
  obtain ⟨m, hm⟩ := Int.eq_ofNat_of_zero_le hb
  obtain ⟨n, hn⟩ := Int.eq_ofNat_of_zero_le (Int.sub_nonneg_of_le h)
  refine ⟨n, m, by omega, hm, ?_⟩
  rw [polyDivmod, deg_trim, if_neg (by omega), hn, hm]
  rfl

section
variable {c : Config} (hc : primitive c = true) {a b : Poly} {n m : Nat} (ha : deg a = (n + m : Nat)) (hb : deg b = m)
include hc ha hb

theorem convolve_divRun (k : Nat) :
    convolve (builtTables c) (divRun (builtTables c) a b n m).1 b k ^^^ coef (divRun (builtTables c) a b n m).2 k =
      coef a k := by
  have hla := length_trim a
  have hlb := length_trim b
  have hinv := divLoop_invariant hc (b := trim b) (db := m) (by omega) (gfInv (builtTables c) (coef b m)) (n + 1) []
    (trim a) (by omega) k
  have hstart : convolve (builtTables c) (List.replicate (n + 1) 0 ++ []) b k = 0 :=
    convolve_eq_zero fun i _ => .inl (by rw [coef_replicate_append, coef_nil, ite_self])
  rwa [convolve_trim_right, convolve_trim_right, hstart, zero_xor_byte, coef_trim] at hinv

theorem deg_divRun_snd_lt : deg (divRun (builtTables c) a b n m).2 < m := by
  have hla := length_trim a
  have hlb := length_trim b
  have hli : gfMul (builtTables c) (gfInv (builtTables c) (coef b m)) (coef (trim b) m) = 1 := by
    rw [coef_trim, gfMul_comm, gfMul_built_gfInv hc (coef_ne_zero_of_deg_eq hb)]
  exact deg_lt_of_coef fun j hj =>
    coef_divLoop_snd hc (by omega) hli (n + 1) [] _ (by omega) (fun i hi => coef_of_ge (by omega)) hj

/-- The top lane of the quotient is the first one computed, the quotient of the leading coefficients. -/
theorem deg_divRun_fst : deg (divRun (builtTables c) a b n m).1 = n := by
  have hfirst : coef (divRun (builtTables c) a b n m).1 n =
      gfMul (builtTables c) (coef (trim a) (n + m)) (gfInv (builtTables c) (coef b m)) :=
    coef_divLoop_fst _ _ _ _ n [_] _ 0
  have htop : coef (divRun (builtTables c) a b n m).1 n ≠ 0 := by
    rw [hfirst, coef_trim]
    exact gfMul_built_ne_zero hc (coef_ne_zero_of_deg_eq ha) (gfInv_built_ne_zero hc (coef_ne_zero_of_deg_eq hb))
  have habove (i : Nat) : coef (divRun (builtTables c) a b n m).1 (n + 1 + i) = 0 :=
    (coef_divLoop_fst _ _ _ _ (n + 1) [] _ i).trans (coef_nil i)
  refine deg_eq_of_top htop fun i hi => ?_
  obtain ⟨j, rfl⟩ := Nat.exists_eq_add_of_le hi
  exact habove j

end

theorem trimmed_polyDivmod (t : Tables) (a b : Poly) :
    Trimmed (polyDivmod t a b).1 ∧ Trimmed (polyDivmod t a b).2 := by
  simp only [polyDivmod]
  split_ifs
  · exact ⟨.inl rfl, trimmed_trim a⟩
  · exact ⟨trimmed_trim _, trimmed_trim _⟩

/-- Dividend = quotient · divisor + remainder. -/
theorem convolve_polyDivmod {c : Config} (hc : primitive c = true) (a : Poly) {b : Poly} (hb : 0 ≤ deg b) (k : Nat) :
    convolve (builtTables c) (polyDivmod (builtTables c) a b).1 b k ^^^ coef (polyDivmod (builtTables c) a b).2 k =
      coef a k := by
  obtain hlt | hge := lt_or_ge (deg a) (deg b)
  · have hnil : convolve (builtTables c) [] b k = 0 := convolve_eq_zero fun i _ => .inl (coef_nil i)
    rw [polyDivmod_of_lt _ hlt, hnil, zero_xor_byte, coef_trim]
  · obtain ⟨n, m, hn, hm, hrun⟩ := exists_polyDivmod_eq_divRun (builtTables c) hb hge
    rw [hrun, convolve_trim_left, coef_trim, convolve_divRun hc hn hm]

theorem deg_polyDivmod_snd_lt {c : Config} (hc : primitive c = true) (a : Poly) {b : Poly} (hb : 0 ≤ deg b) :
    deg (polyDivmod (builtTables c) a b).2 < deg b := by
  obtain hlt | hge := lt_or_ge (deg a) (deg b)
  · rwa [polyDivmod_of_lt _ hlt, deg_trim]
  · obtain ⟨n, m, hn, hm, hrun⟩ := exists_polyDivmod_eq_divRun (builtTables c) hb hge
    rw [hrun, deg_trim, hm]
    exact deg_divRun_snd_lt hc hn hm

theorem deg_polyDivmod_fst {c : Config} (hc : primitive c = true) {a b : Poly} (hb : 0 ≤ deg b) (h : deg b ≤ deg a) :
    deg (polyDivmod (builtTables c) a b).1 = deg a - deg b := by
  obtain ⟨n, m, hn, hm, hrun⟩ := exists_polyDivmod_eq_divRun (builtTables c) hb h
  rw [hrun, deg_trim, deg_divRun_fst hc hn hm]
  omega

/-! The commands: the overflow test of PMUL (rule R144), and equal destinations of PDIV (30_encoding.md rule R85
(4)). -/

theorem exec_pmul_of_fits {s : State} {d a b : PIx}
    (h : ¬(deg (s.getP a) ≥ 0 ∧ deg (s.getP b) ≥ 0 ∧ deg (s.getP a) + deg (s.getP b) > 255)) :
    exec (.pmul d a b) s = .next (s.setP d (polyMul s.tables (s.getP a) (s.getP b))).complete := by
  simp only [exec, execPmul, decide_eq_true h]
  rfl

theorem exec_pmul_of_overflow {s : State} {d a b : PIx}
    (h : deg (s.getP a) ≥ 0 ∧ deg (s.getP b) ≥ 0 ∧ deg (s.getP a) + deg (s.getP b) > 255) :
    exec (.pmul d a b) s = .next (s.raise .cmdOverflow) := by
  simp only [exec, execPmul, decide_eq_false (not_not.2 h)]
  rfl

theorem decode_pdiv_sameDestination (q a b : PIx) : decode (pack 0x23 q q a b 0 0) = .error .sameDestination := by
  obtain ⟨hop, hA, hB, -, -, hE, hF⟩ := (pack_eq_iff (by decide)).1 (rfl : pack 0x23 q q a b 0 0 = _)
  simp [decode, hop, hA, hB, distinctDest, lowZero_eight.2 ⟨hE, hF⟩, Instr.wellFormed]

end Sys2Proof.Machine
end

section
/-! The statements of 42_polynomial.md. -/

open Sys2Proof Sys2Proof.Machine

/-- Settles O20: each function reads its operands through their coefficients and degree only, and ends in a trim; the
product needs none, its top coefficient being a product of nonzero ones. -/
theorem resultsIgnoreZeroTopLanes : Obligations.ResultsIgnoreZeroTopLanes := by
  intro c a b k x hc
  obtain ⟨hquot, hrem⟩ := trimmed_polyDivmod (builtTables c) a b
  exact ⟨polyAdd_trim a b, trimmed_trim _, polyMul_trim _ a b, trimmed_polyMul hc a b, polyScale_trim _ a k,
    trimmed_trim _, polyDivmod_trim _ a b, hquot, hrem, polyEval_trim _ a x, polyDeriv_trim a, trimmed_trim _⟩

/-- Settles O21: the overflow test fails only on two non-zero operands, and `polyMul` has the coefficients of the
convolution at every index. -/
theorem pmulMultiplies : Obligations.PmulMultiplies := by
  rintro s d a b ⟨hc, htab⟩
  refine ⟨decodeOfEncode (.pmul d a b) rfl, fun hzero => ?_, fun ha hb hle => ?_,
    fun ha hb hgt => exec_pmul_of_overflow ⟨ha, hb, hgt⟩⟩
  · rw [exec_pmul_of_fits (by omega), polyMul_of_zero _ hzero]
  · refine ⟨_, exec_pmul_of_fits (by omega), ?_⟩
    rw [htab]
    exact ⟨trimmed_polyMul hc _ _, deg_polyMul hc ha hb, coef_polyMul _ _ _⟩

/-- Settles O23: Horner's method distributes the point over the terms above the lowest. -/
theorem pevalIsSumOfTerms : Obligations.PevalIsSumOfTerms := by
  rintro s d a b ⟨hc, htab⟩
  refine ⟨decodeOfEncode (.peval d a b) rfl, fun hle => ?_, fun hgt => ?_⟩
  · rw [exec, execPeval, State.fe_of_le hle, htab, ← polyEval_built_eq_xorSum hc]
    rfl
  · rw [exec, execPeval, State.fe_of_gt hgt]
    rfl

/-- Settles O24: the loop of the long division keeps quotient · divisor + rest and clears the top of the rest. -/
theorem pdivDividesWithRemainder : Obligations.PdivDividesWithRemainder := by
  rintro s q r a b ⟨hc, htab⟩
  refine ⟨fun hne => decodeOfEncode (.pdiv q r a b) (decide_eq_true hne), decode_pdiv_sameDestination q a b,
    fun hb => ?_, fun hzero => ⟨_, ?_, rfl, ?_⟩⟩
  · obtain ⟨hquot, hrem⟩ := trimmed_polyDivmod (builtTables s.cfg) (s.getP a) (s.getP b)
    refine ⟨(polyDivmod s.tables (s.getP a) (s.getP b)).1, (polyDivmod s.tables (s.getP a) (s.getP b)).2, ?_, ?_⟩
    · rw [exec, execPdiv, decide_eq_true hb]
      rfl
    · simp only [htab, coef_polyAdd, coef_polyMul, convolve_polyDivmod hc _ hb]
      exact ⟨hquot, hrem, fun _ => trivial, deg_polyDivmod_snd_lt hc _ hb, deg_polyDivmod_fst hc hb⟩
  · rw [exec, execPdiv, decide_eq_false (by omega)]
    rfl
  · rw [State.raise_status]
    exact Bool.or_true _

/-- Settles O22: each result is its coefficients' map, trimmed. -/
theorem paddPscalePderiv : Obligations.PaddPscalePderiv := by
  intro s d a c b
  refine ⟨decodeOfEncode (.padd d a c) rfl, decodeOfEncode (.pscale d a b) rfl, decodeOfEncode (.pderiv d a) rfl,
    ⟨_, rfl, trimmed_trim _, coef_polyAdd _ _⟩, fun hle => ?_, fun hgt => ?_,
    ⟨_, rfl, trimmed_trim _, coef_polyDeriv _⟩⟩
  · refine ⟨polyScale s.tables (s.getP a) ((s.getR b).setWidth 8), ?_, trimmed_trim _, coef_polyScale _ _ _⟩
    rw [exec, execPscale, State.fe_of_le hle]
    rfl
  · rw [exec, execPscale, State.fe_of_gt hgt]
    rfl

end

section
/-! SUPPORT. The unit of 43_syndrome.md: a product with a factor 1 + ax is a sum of two multiples of the other operand,
so the value, the length and the constant term of the erasure locator are read off that sum; the products of powers of
`ALPHA`; and the lanes of the syndrome. -/

namespace Sys2Proof.Machine
open Function

/-! Powers of `ALPHA` multiply by adding their exponents, and no product of nonzero elements is 0. -/

theorem gfMul_built_expAt {c : Config} (hc : primitive c = true) (m n : Nat) :
    gfMul (builtTables c) ((builtTables c).expAt m) ((builtTables c).expAt n) = (builtTables c).expAt (m + n) := by
  have hne : (xtime c)^[m] 1 ≠ 0 := iterate_xtime_one_ne_zero hc m
  simp only [expAt_built_eq_iterate hc]
  rw [gfMul_built_eq_iterate hc hne, Commute.iterate_iterate_self (xtime c), (logAt_built_spec hc hne).2,
    ← iterate_add_apply, Nat.add_comm]

theorem gfMul_built_alpha {c : Config} (hc : primitive c = true) (i j : Int) :
    gfMul (builtTables c) ((builtTables c).alpha i) ((builtTables c).alpha j) = (builtTables c).alpha (i + j) := by
  rw [Tables.alpha, Tables.alpha, gfMul_built_expAt hc, ← alpha_natCast]
  refine alpha_congr _ ?_
  rw [Int.ModEq]
  omega

theorem alpha_built_zero (c : Config) : (builtTables c).alpha 0 = 1 := expAt_built c 0

theorem alpha_built_ne_zero {c : Config} (hc : primitive c = true) (i : Int) : (builtTables c).alpha i ≠ 0 := by
  rw [Tables.alpha, expAt_built_eq_iterate hc]
  exact iterate_xtime_one_ne_zero hc _

theorem gfMul_built_eq_zero_iff {c : Config} (hc : primitive c = true) {x y : Byte} :
    gfMul (builtTables c) x y = 0 ↔ x = 0 ∨ y = 0 := by
  refine ⟨fun h => or_iff_not_and_not.2 fun ⟨hx, hy⟩ => gfMul_built_ne_zero hc hx hy h, ?_⟩
  rintro (rfl | rfl)
  · exact zero_gfMul _ y
  · exact gfMul_zero _ x

/-- The inverse of a power of `ALPHA` is the power with the opposite exponent. -/
theorem gfMul_built_alpha_eq_one_iff {c : Config} (hc : primitive c = true) {x : Byte} {i : Int} :
    gfMul (builtTables c) x ((builtTables c).alpha i) = 1 ↔ x = (builtTables c).alpha (-i) := by
  constructor
  · intro h
    calc x = gfMul (builtTables c) x ((builtTables c).alpha (i + -i)) := by
          rw [Int.add_right_neg, alpha_built_zero, gfMul_built_one hc]
      _ = gfMul (builtTables c) 1 ((builtTables c).alpha (-i)) := by
          rw [← gfMul_built_alpha hc, ← gfMul_built_assoc hc, h]
      _ = (builtTables c).alpha (-i) := by rw [gfMul_comm, gfMul_built_one hc]
  · rintro rfl
    rw [gfMul_built_alpha hc, Int.add_left_neg, alpha_built_zero]

/-! The value of a sum and of a multiple (rules R141, R145, R149). -/

theorem polyEval_built_eq_xorSum_of_le {c : Config} (hc : primitive c = true) (p : Poly) (x : Byte) {n : Nat}
    (h : p.length ≤ n) :
    polyEval (builtTables c) p x = xorSum n fun i => gfMul (builtTables c) (coef p i) (gfPow (builtTables c) x i) := by
  induction n, h using Nat.le_induction with
  | base => exact polyEval_built_eq_xorSum hc p x
  | succ n hle ih => rw [ih, xorSum_succ, coef_of_ge hle, zero_gfMul, xor_zero_byte]

theorem polyEval_built_polyAdd {c : Config} (hc : primitive c = true) (a b : Poly) (x : Byte) :
    polyEval (builtTables c) (polyAdd a b) x = polyEval (builtTables c) a x ^^^ polyEval (builtTables c) b x := by
  rw [polyEval_built_eq_xorSum_of_le hc _ x (length_polyAdd_le a b),
    polyEval_built_eq_xorSum_of_le hc a x (le_max_left _ b.length),
    polyEval_built_eq_xorSum_of_le hc b x (le_max_right a.length _), ← xorSum_xor]
  simp only [coef_polyAdd, gfMul_built_xor_left hc]

theorem polyEval_built_polyScale {c : Config} (hc : primitive c = true) (p : Poly) (k x : Byte) :
    polyEval (builtTables c) (polyScale (builtTables c) p k) x =
      gfMul (builtTables c) (polyEval (builtTables c) p x) k := by
  rw [polyScale, polyEval_trim]
  induction p with
  | nil => exact (zero_gfMul _ k).symm
  | cons d p ih =>
    rw [List.map_cons, polyEval_cons, ih, polyEval_cons, gfMul_built_xor_left hc, gfMul_built_assoc hc,
      gfMul_built_assoc hc, gfMul_comm _ k x]

/-! A factor 1 + ax (rule R163). -/

theorem length_of_trimmed {p : Poly} (h : Trimmed p) : (p.length : Int) = deg p + 1 := by
  obtain rfl | htop := h
  · rfl
  · have hpos : 0 < p.length := List.length_pos_iff.2 fun h0 => htop (by rw [h0, coef_nil])
    rw [deg_eq_of_top htop fun i hi => coef_of_ge (by omega)]
    omega

theorem trim_of_trimmed {p : Poly} (h : Trimmed p) : trim p = p := by
  have hlen : (trim p).length = p.length := by
    have hp := length_of_trimmed h
    have ht := length_trim p
    omega
  refine List.ext_getElem hlen fun i hi hi' => ?_
  rw [← coef_of_lt hi, ← coef_of_lt hi', coef_trim]

theorem eq_of_trimmed {p q : Poly} (hp : Trimmed p) (hq : Trimmed q) (h : ∀ i, coef p i = coef q i) : p = q := by
  rw [← trim_of_trimmed hp, ← trim_of_trimmed hq, trim_congr h]

/-- The lanes of the product: the factor's constant term leaves `g`, its other term moves `g` up one lane. -/
theorem polyMul_linear {c : Config} (hc : primitive c = true) (g : Poly) (a : Byte) :
    polyMul (builtTables c) g [1, a] = polyAdd g (polyScale (builtTables c) (0 :: g) a) := by
  refine eq_of_trimmed (trimmed_polyMul hc _ _) (trimmed_trim _) fun k => ?_
  rw [coef_polyMul, convolve, xorSum_succ, Nat.sub_self, coef_cons_zero, gfMul_built_one hc, BitVec.xor_comm,
    coef_polyAdd, coef_polyScale]
  cases k with
  | zero => rw [coef_cons_zero, zero_gfMul]; rfl
  | succ k =>
    have hlow : ∀ i < k, gfMul (builtTables c) (coef g i) (coef [1, a] (k + 1 - i)) = 0 := fun i hi => by
      rw [coef_of_ge (p := [1, a]) (by rw [List.length_cons, List.length_singleton]; omega), gfMul_zero]
    rw [xorSum_succ, xorSum_congr hlow, xorSum_zero, zero_xor_byte, Nat.add_sub_cancel_left, coef_cons_succ,
      coef_cons_succ, coef_cons_zero]

theorem polyMul_linear_comm {c : Config} (hc : primitive c = true) (g : Poly) (a b : Byte) :
    polyMul (builtTables c) (polyMul (builtTables c) g [1, a]) [1, b] =
      polyMul (builtTables c) (polyMul (builtTables c) g [1, b]) [1, a] := by
  refine eq_of_trimmed (trimmed_polyMul hc _ _) (trimmed_polyMul hc _ _) fun k => ?_
  simp only [polyMul_linear hc, coef_polyAdd, coef_polyScale]
  cases k with
  | zero => simp only [coef_cons_zero, zero_gfMul]
  | succ k =>
    simp only [coef_cons_succ, coef_polyAdd, coef_polyScale, gfMul_built_xor_left hc, gfMul_built_assoc hc,
      gfMul_comm _ b a]
    ac_rfl

theorem deg_linear {a : Byte} (ha : a ≠ 0) : deg [1, a] = 1 :=
  deg_eq_of_top (k := 1) ha fun _ hi => coef_of_ge hi

theorem length_polyMul_linear (t : Tables) {g : Poly} (hg : Trimmed g) (hne : g ≠ []) {a : Byte} (ha : a ≠ 0) :
    (polyMul t g [1, a]).length = g.length + 1 := by
  have hlen := length_of_trimmed hg
  have hpos := List.length_pos_iff.2 hne
  rw [length_polyMul, deg_linear ha, if_neg (by omega)]
  omega

theorem polyEval_built_linear {c : Config} (hc : primitive c = true) (g : Poly) (a x : Byte) :
    polyEval (builtTables c) (polyMul (builtTables c) g [1, a]) x =
      gfMul (builtTables c) (polyEval (builtTables c) g x) (1 ^^^ gfMul (builtTables c) x a) := by
  have hshift : polyEval (builtTables c) (0 :: g) x = gfMul (builtTables c) (polyEval (builtTables c) g x) x := by
    rw [polyEval_cons, xor_zero_byte]
  have hdistrib := gfMul_built_gfAdd hc (polyEval (builtTables c) g x) 1 (gfMul (builtTables c) x a)
  rw [gfMul_built_one hc] at hdistrib
  rw [polyMul_linear hc, polyEval_built_polyAdd hc, polyEval_built_polyScale hc, hshift, gfMul_built_assoc hc]
  exact hdistrib.symm

/-! The locator (rules R163, R164). -/

theorem erasLoc_append (t : Tables) (l : Poly) (p : Byte) :
    erasLoc t (l ++ [p]) = polyMul t (erasLoc t l) [1, t.alpha p.toNat] := by
  rw [erasLoc, List.foldl_append]
  rfl

theorem erasLoc_perm {c : Config} (hc : primitive c = true) {l l' : Poly} (h : l.Perm l') :
    erasLoc (builtTables c) l = erasLoc (builtTables c) l' :=
  h.foldl_eq' (fun _ _ _ _ g => polyMul_linear_comm hc g _ _) _

theorem trimmed_erasLoc {c : Config} (hc : primitive c = true) (e : Poly) : Trimmed (erasLoc (builtTables c) e) := by
  induction e using List.reverseRecOn with
  | nil => exact .inr (show coef [1] 0 ≠ 0 by decide)
  | append_singleton l p _ => rw [erasLoc_append]; exact trimmed_polyMul hc _ _

theorem length_erasLoc {c : Config} (hc : primitive c = true) (e : Poly) :
    (erasLoc (builtTables c) e).length = e.length + 1 := by
  induction e using List.reverseRecOn with
  | nil => rfl
  | append_singleton l p ih =>
    have hne : erasLoc (builtTables c) l ≠ [] := List.length_pos_iff.1 (by omega)
    rw [erasLoc_append, length_polyMul_linear _ (trimmed_erasLoc hc l) hne (alpha_built_ne_zero hc _), ih,
      List.length_append, List.length_singleton]

theorem coef_zero_erasLoc {c : Config} (hc : primitive c = true) (e : Poly) :
    coef (erasLoc (builtTables c) e) 0 = 1 := by
  induction e using List.reverseRecOn with
  | nil => rfl
  | append_singleton l p ih =>
    rw [erasLoc_append, polyMul_linear hc, coef_polyAdd, coef_polyScale, ih, coef_cons_zero, zero_gfMul, xor_zero_byte]

/-- The factor of `p` vanishes at alpha(-p) only. -/
theorem polyEval_erasLoc_eq_zero_iff {c : Config} (hc : primitive c = true) (e : Poly) (x : Byte) :
    polyEval (builtTables c) (erasLoc (builtTables c) e) x = 0 ↔
      ∃ p ∈ e, x = (builtTables c).alpha (-(p.toNat : Int)) := by
  induction e using List.reverseRecOn with
  | nil =>
    simp only [List.not_mem_nil, false_and, exists_false, iff_false]
    show gfMul (builtTables c) 0 x ^^^ 1 ≠ 0
    rw [zero_gfMul]
    decide
  | append_singleton l p ih =>
    have hroot : (1 ^^^ gfMul (builtTables c) x ((builtTables c).alpha p.toNat) = 0) ↔
        x = (builtTables c).alpha (-(p.toNat : Int)) := by
      rw [← gfMul_built_alpha_eq_one_iff hc, eq_comm (b := (1 : Byte))]
      exact BitVec.xor_eq_zero_iff
    rw [erasLoc_append, polyEval_built_linear hc, gfMul_built_eq_zero_iff hc, ih, hroot]
    simp only [List.mem_append, List.mem_singleton, or_and_right, exists_or, exists_eq_left]

/-! The syndrome (rules R161, R162). -/

theorem syndrome_eq_map (t : Tables) (r : Poly) (nsym : Nat) :
    syndrome t r nsym = (List.range nsym).map fun i : Nat => polyEval t r (t.alpha i) := by
  simp only [syndrome, List.bind_eq_flatMap, List.pure_def, ← List.map_eq_flatMap, List.map_map,
    Function.comp_def]

theorem length_syndrome (t : Tables) (r : Poly) (nsym : Nat) : (syndrome t r nsym).length = nsym := by
  rw [syndrome_eq_map, List.length_map, List.length_range]

theorem coef_syndrome (t : Tables) (r : Poly) {nsym i : Nat} (h : i < nsym) :
    coef (syndrome t r nsym) i = polyEval t r (t.alpha i) := by
  rw [syndrome_eq_map, coef_map_range, if_pos h]

/-! The commands' operand test and flag. -/

theorem listBelow_eq_true {e : Poly} {bound : Nat} :
    listBelow e bound = true ↔ e.length ≤ 255 ∧ ∀ p ∈ e, p.toNat < bound := by
  simp only [listBelow, Bool.and_eq_true, decide_eq_true_eq, List.all_eq_true]

theorem positionList_eq_ok {e : Poly} {u : Unit} :
    positionList e = .ok u ↔ e.length ≤ 255 ∧ ∀ p ∈ e, p.toNat ≤ 254 := by
  simp only [positionList, require_eq_ok, listBelow_eq_true, Nat.lt_succ_iff]

theorem positionList_of_outOfRange {e : Poly} (h : e.length > 255 ∨ ∃ p ∈ e, p.toNat > 254) :
    positionList e = .error .cmdOperand := by
  refine require_eq_error.2 ⟨Bool.eq_false_iff.2 fun hin => ?_, rfl⟩
  obtain ⟨hlen, hpos⟩ := listBelow_eq_true.1 hin
  obtain hgt | ⟨p, hp, hgt⟩ := h
  · exact hlen.not_gt hgt
  · exact hgt.not_ge (Nat.le_of_lt_succ (hpos p hp))

theorem allZero_eq_true {syn : Poly} : allZero syn = true ↔ ∀ i, coef syn i = 0 := by
  rw [allZero, beq_iff_eq, deg_eq_neg_one]

end Sys2Proof.Machine
end

section
/-! The statements of 43_syndrome.md. -/

open Sys2Proof Sys2Proof.Machine

/-- Settles O26: the factors 1 + alpha(p) x commute, and each adds one lane, keeps the constant term and vanishes at
alpha(-p) only. -/
theorem eralocLocatesErasures : Obligations.EralocLocatesErasures := by
  rintro s d e ⟨hc, htab⟩
  refine ⟨decodeOfEncode (.eraloc d e) rfl, ⟨rfl, erasLoc_append _⟩, fun hlen hpos => ?_, fun hout => ?_⟩
  · refine ⟨_, ?_, rfl, ?_⟩
    · rw [exec, execEraloc, positionList_eq_ok (u := ()).2 ⟨hlen, hpos⟩]
      rfl
    · rw [htab]
      exact ⟨fun _ => erasLoc_perm hc, length_erasLoc hc _, trimmed_erasLoc hc _, coef_zero_erasLoc hc _,
        polyEval_erasLoc_eq_zero_iff hc _⟩
  · rw [exec, execEraloc, positionList_of_outOfRange hout]
    rfl

/-- Settles O25: the value has `NSYM` lanes whatever the block is, and SZ tests its degree, which is -1 when no lane
differs from 0. -/
theorem syndEvaluatesAtPowers : Obligations.SyndEvaluatesAtPowers := by
  intro s d a
  have hlen : (syndrome s.tables (s.getP a) s.nsymN).length = s.nsym.toNat := length_syndrome _ _ _
  refine ⟨decodeOfEncode (.synd d a) rfl, _, _, rfl, hlen, fun i hi => coef_syndrome _ _ hi, ?_⟩
  refine allZero_eq_true.trans ⟨fun h i _ => h i, fun h i => ?_⟩
  obtain hlt | hge := Nat.lt_or_ge i s.nsym.toNat
  · exact h i hlt
  · exact coef_of_ge (hlen.trans_le hge)

/-- Settles O27: the result is the first `NSYM` coefficients of the convolution, trimmed. -/
theorem omegaIsProductModulo : Obligations.OmegaIsProductModulo := fun _ d x l =>
  ⟨decodeOfEncode (.omega d x l) rfl, _, rfl, trimmed_trim _, fun k =>
    (coef_trim _ k).trans (coef_map_range _ _ k)⟩
end

section
/-! SUPPORT. The bridge from lanes to the polynomials of Mathlib: the bytes are the elements of a field, with XOR as sum
and the table product as product (41_field.md rules R121, R122), and a list of lanes is the polynomial with these
coefficients, so that the functions of 42_polynomial.md are the operations of a polynomial ring. -/

namespace Sys2Proof.Machine
open Polynomial

theorem deg_lt_iff {p : Poly} {n : Nat} : deg p < n ↔ ∀ i, n ≤ i → coef p i = 0 :=
  ⟨fun h _ hi => coef_eq_zero_of_deg_lt (by omega), deg_lt_of_coef⟩

theorem coef_xPow (k i : Nat) : coef (xPow k) i = if i = k then 1 else 0 := by
  rw [xPow, coef_replicate_append_cons, List.append_nil, ← List.append_nil (List.replicate _ _),
    coef_replicate_append, coef_nil, ite_self, zero_xor_byte]

theorem deg_xPow (k : Nat) : deg (xPow k) = k :=
  deg_eq_of_top (by rw [coef_xPow, if_pos rfl]; decide) fun i hi => by rw [coef_xPow, if_neg hi.ne']

/-- A field whose elements the bytes name, with XOR as its sum and the table product as its product. -/
structure FieldView (t : Tables) (K : Type) [Field K] where
  el : Byte ≃ K
  el_xor : ∀ x y, el (x ^^^ y) = el x + el y
  el_gfMul : ∀ x y, el (gfMul t x y) = el x * el y
  el_one : el 1 = 1

/-- The built tables multiply in a field, whose elements are the bytes themselves. -/
theorem exists_fieldView {c : Config} (hc : primitive c = true) :
    ∃ (K : Type) (_ : Field K), Nonempty (FieldView (builtTables c) K) := by
  have hinv (x : Byte) (hx : x ≠ 0) :
      gfMul (builtTables c) x (if x = 0 then 0 else gfInv (builtTables c) x) = 1 := by
    rw [if_neg hx, gfMul_built_gfInv hc hx]
  let _ : Field Byte := @Field.ofMinimalAxioms Byte ⟨gfAdd⟩ ⟨gfMul (builtTables c)⟩ ⟨id⟩
    ⟨fun x => if x = 0 then 0 else gfInv (builtTables c) x⟩ ⟨0⟩ ⟨1⟩ BitVec.xor_assoc zero_gfAdd gfAdd_self
    (gfMul_built_assoc hc) (gfMul_comm _) (fun x => (gfMul_comm _ _ _).trans (gfMul_built_one hc x)) hinv (if_pos rfl)
    (gfMul_built_gfAdd hc) ⟨0, 1, by decide⟩
  exact ⟨Byte, ‹_›, ⟨⟨Equiv.refl Byte, fun _ _ => rfl, fun _ _ => rfl, rfl⟩⟩⟩

namespace FieldView

variable {t : Tables} {K : Type} [Field K] (f : FieldView t K)

@[simp] theorem el_zero : f.el 0 = 0 := by
  have h := f.el_xor 0 0
  rwa [xor_self_byte, left_eq_add] at h

@[simp] theorem el_eq_zero {x : Byte} : f.el x = 0 ↔ x = 0 := by rw [← f.el_zero, f.el.apply_eq_iff_eq]

include f in
theorem charP_two : CharP K 2 := by
  refine CharTwo.of_one_ne_zero_of_two_eq_zero one_ne_zero ?_
  rw [← one_add_one_eq_two, ← f.el_one, ← f.el_xor, xor_self_byte, f.el_zero]

include f in
/-- Subtraction is addition. -/
theorem two_eq_zero : (2 : K[X]) = 0 := by
  have := f.charP_two
  exact CharTwo.two_eq_zero

theorem el_xorSum (n : Nat) (g : Nat → Byte) : f.el (xorSum n g) = ∑ i ∈ Finset.range n, f.el (g i) := by
  induction n with
  | zero => exact f.el_zero
  | succ n ih => rw [xorSum_succ, f.el_xor, ih, Finset.sum_range_succ]

/-- The polynomial that a list of lanes stands for (00_scope.md rule R11). -/
noncomputable def poly (p : Poly) : K[X] := ∑ i ∈ Finset.range p.length, monomial i (f.el (coef p i))

@[simp] theorem coeff_poly (p : Poly) (k : Nat) : (f.poly p).coeff k = f.el (coef p k) := by
  simp only [poly, finsetSum_coeff, coeff_monomial, Finset.sum_ite_eq', Finset.mem_range]
  split_ifs with hk
  · rfl
  · rw [coef_of_ge (by omega), f.el_zero]

/-- The polynomial determines the coefficients. -/
theorem poly_eq_iff {p q : Poly} : f.poly p = f.poly q ↔ ∀ k, coef p k = coef q k := by
  simp only [Polynomial.ext_iff, coeff_poly, f.el.apply_eq_iff_eq]

theorem poly_injOn_trimmed {p q : Poly} (hp : Trimmed p) (hq : Trimmed q) (h : f.poly p = f.poly q) : p = q :=
  eq_of_trimmed hp hq (f.poly_eq_iff.1 h)

/-- Every polynomial over the field is that of some lanes. -/
theorem exists_poly_eq (P : K[X]) : ∃ p, f.poly p = P := by
  refine ⟨(List.range (P.natDegree + 1)).map fun i => f.el.symm (P.coeff i), Polynomial.ext fun k => ?_⟩
  rw [coeff_poly, coef_map_range]
  split_ifs with hk
  · exact f.el.apply_symm_apply _
  · rw [f.el_zero, coeff_eq_zero_of_natDegree_lt (by omega)]

/-! The model's functions are the ring's. -/

@[simp] theorem poly_nil : f.poly [] = 0 := by simp [poly]

@[simp] theorem poly_one : f.poly [1#8] = 1 := by
  rw [poly, List.length_singleton, Finset.sum_range_one, coef_cons_zero, show f.el 1#8 = 1 from f.el_one,
    monomial_zero_one]

@[simp] theorem poly_trim (p : Poly) : f.poly (trim p) = f.poly p := f.poly_eq_iff.2 (coef_trim p)

@[simp] theorem poly_polyAdd (a b : Poly) : f.poly (polyAdd a b) = f.poly a + f.poly b := by
  ext k; simp [f.el_xor]

@[simp] theorem poly_polyScale (p : Poly) (k : Byte) : f.poly (polyScale t p k) = C (f.el k) * f.poly p := by
  ext i; simp [f.el_gfMul, mul_comm]

theorem el_convolve (a b : Poly) (k : Nat) : f.el (convolve t a b k) = (f.poly a * f.poly b).coeff k := by
  simp only [convolve, f.el_xorSum, f.el_gfMul, coeff_mul, coeff_poly]
  exact (Finset.Nat.sum_antidiagonal_eq_sum_range_succ (fun i j => f.el (coef a i) * f.el (coef b j)) k).symm

@[simp] theorem poly_polyMul (a b : Poly) : f.poly (polyMul t a b) = f.poly a * f.poly b := by
  ext k; rw [coeff_poly, coef_polyMul, el_convolve]

@[simp] theorem poly_xPow (k : Nat) : f.poly (xPow k) = X ^ k := by
  ext i; rw [coeff_poly, coef_xPow, coeff_X_pow, apply_ite f.el, f.el_one, f.el_zero]

theorem poly_linear (a : Byte) : f.poly [1, a] = 1 + C (f.el a) * X := by
  have hone : f.el 1#8 = 1 := f.el_one
  simp [poly, Finset.sum_range_succ, hone, ← C_mul_X_eq_monomial]

/-- Horner's method evaluates the polynomial (42_polynomial.md rule R149). -/
theorem el_polyEval (p : Poly) (x : Byte) : f.el (polyEval t p x) = (f.poly p).eval (f.el x) := by
  have hcons (a : Byte) (p : Poly) : f.poly (a :: p) = C (f.el a) + X * f.poly p := by
    ext k; cases k <;> simp [coeff_C]
  induction p with
  | nil => simp [polyEval]
  | cons a p ih => rw [polyEval_cons, f.el_xor, f.el_gfMul, ih, hcons]; simp [add_comm, mul_comm]

/-- Divisibility, coefficient by coefficient. -/
theorem poly_dvd_poly {a b : Poly} : f.poly a ∣ f.poly b ↔ ∃ q, ∀ k, coef b k = coef (polyMul t q a) k := by
  simp only [← f.poly_eq_iff, poly_polyMul]
  constructor
  · rintro ⟨Q, hQ⟩
    obtain ⟨q, rfl⟩ := f.exists_poly_eq Q
    exact ⟨q, hQ.trans (mul_comm _ _)⟩
  · rintro ⟨q, hq⟩
    exact ⟨f.poly q, hq.trans (mul_comm _ _)⟩

/-! Degrees. -/

theorem degree_poly_lt {p : Poly} {n : Nat} : (f.poly p).degree < n ↔ deg p < n := by
  simp only [degree_lt_iff_coeff_zero, deg_lt_iff, coeff_poly, el_eq_zero]

theorem poly_eq_zero {p : Poly} : f.poly p = 0 ↔ deg p < 0 := by
  rw [← degree_eq_bot, ← Nat.WithBot.lt_zero_iff]
  exact f.degree_poly_lt (n := 0)

theorem natDegree_poly_le {p : Poly} {n : Nat} : (f.poly p).natDegree ≤ n ↔ deg p ≤ n := by
  rw [← Int.lt_add_one_iff, ← Nat.cast_succ, deg_lt_iff]
  simp only [natDegree_le_iff_coeff_eq_zero, coeff_poly, el_eq_zero, Nat.succ_le_iff]

theorem natDegree_poly {p : Poly} (h : 0 ≤ deg p) : ((f.poly p).natDegree : Int) = deg p := by
  obtain ⟨n, hn⟩ := Int.eq_ofNat_of_zero_le h
  have hle := f.natDegree_poly_le.1 (le_refl (f.poly p).natDegree)
  have hge := f.natDegree_poly_le.2 hn.le
  omega

theorem natDegree_poly_le_of_length {p : Poly} {n : Nat} (h : p.length ≤ n + 1) : (f.poly p).natDegree ≤ n := by
  have hdeg := deg_lt_length p
  exact f.natDegree_poly_le.2 (by omega)

/-- A trimmed list has at most one lane more than the degree, and the zero polynomial none. -/
theorem length_le_of_natDegree {p : Poly} (hp : Trimmed p) {n : Nat} (h : (f.poly p).natDegree ≤ n) :
    p.length ≤ n + 1 := by
  have hlen := length_of_trimmed hp
  have hdeg := f.natDegree_poly_le.1 h
  omega

end FieldView

/-- The inverse of rule R123 is the field's. -/
theorem FieldView.el_gfInv {c : Config} (hc : primitive c = true) {K : Type} [Field K]
    (f : FieldView (builtTables c) K) {x : Byte} (hx : x ≠ 0) : f.el (gfInv (builtTables c) x) = (f.el x)⁻¹ := by
  refine eq_inv_of_mul_eq_one_right ?_
  rw [← f.el_gfMul, gfMul_built_gfInv hc hx, f.el_one]

end Sys2Proof.Machine
end

section
/-! SUPPORT. The remainder sequence of XGCD, SUGI and ELOC (44_locator.md rules R171, R173, R175): how its loop ends,
and what every iteration keeps, both cofactor identities, their determinant, and the bounds on the degrees. -/

namespace Sys2Proof.Machine
open Polynomial

/-! The loop. -/

/-- What the start has and every iteration keeps, the end has. -/
theorem euclidRun_induction {t : Tables} {r1 r2 : Poly} {up : Int} {P : Euclid → Prop} (start : P (euclidStart r1 r2))
    (step : ∀ x, up < deg x.rb → P x → P (euclidStep t x)) : P (euclidRun t r1 r2 up) := by
  have hloop (fuel : Nat) (x : Euclid) (hx : P x) : P (euclidLoop t up fuel x) := by
    induction fuel generalizing x with
    | zero => exact hx
    | succ fuel ih =>
      rw [euclidLoop]
      split_ifs with hgt
      · exact ih _ (step x hgt hx)
      · exact hx
  exact hloop _ _ start

/-- A second operand within the bound is answered at once. -/
theorem euclidRun_of_le (t : Tables) {r1 r2 : Poly} {up : Int} (h : deg r2 ≤ up) :
    euclidRun t r1 r2 up = euclidStart r1 r2 := by
  rw [euclidRun]
  cases (trim r2).length with
  | zero => rfl
  | succ fuel => exact if_neg (by simpa only [euclidStart, deg_trim] using h.not_gt)

/-- The working values after `k` iterations. -/
def euclidAt (t : Tables) (r1 r2 : Poly) (k : Nat) : Euclid := (euclidStep t)^[k] (euclidStart r1 r2)

theorem euclidAt_succ (t : Tables) (r1 r2 : Poly) (k : Nat) :
    euclidAt t r1 r2 (k + 1) = euclidStep t (euclidAt t r1 r2 k) :=
  Function.iterate_succ_apply' _ _ _

/-- The loop stops at the first iteration whose remainder is within the bound, or earlier. -/
theorem exists_euclidRun_eq_euclidAt (t : Tables) (r1 r2 : Poly) (up : Int) :
    ∃ n, euclidRun t r1 r2 up = euclidAt t r1 r2 n ∧ ∀ k < n, up < deg (euclidAt t r1 r2 k).rb := by
  refine euclidRun_induction (P := fun x => ∃ n, x = euclidAt t r1 r2 n ∧ ∀ k < n, up < deg (euclidAt t r1 r2 k).rb)
    ⟨0, rfl, fun k hk => absurd hk (Nat.not_lt_zero k)⟩ ?_
  rintro _ hgt ⟨n, rfl, hall⟩
  refine ⟨n + 1, (euclidAt_succ t r1 r2 n).symm, fun k hk => ?_⟩
  obtain hlt | rfl := Nat.lt_succ_iff_lt_or_eq.1 hk
  · exact hall k hlt
  · exact hgt

/-- The remainders are trimmed, and so are the cofactors. -/
theorem trimmed_euclidRun (t : Tables) (r1 r2 : Poly) (up : Int) :
    let x := euclidRun t r1 r2 up
    (Trimmed x.ra ∧ Trimmed x.rb) ∧ (Trimmed x.ua ∧ Trimmed x.ub) ∧ Trimmed x.va ∧ Trimmed x.vb := by
  have hone : Trimmed [1] := .inr (show coef [1] 0 ≠ 0 by decide)
  refine euclidRun_induction (P := fun x => (Trimmed x.ra ∧ Trimmed x.rb) ∧ (Trimmed x.ua ∧ Trimmed x.ub) ∧
    Trimmed x.va ∧ Trimmed x.vb) ⟨⟨trimmed_trim _, trimmed_trim _⟩, ⟨hone, .inl rfl⟩, .inl rfl, hone⟩ ?_
  rintro x - ⟨⟨-, hrb⟩, ⟨-, hub⟩, -, hvb⟩
  exact ⟨⟨hrb, (trimmed_polyDivmod _ _ _).2⟩, ⟨hub, trimmed_trim _⟩, hvb, trimmed_trim _⟩

/-- The remainder divided by next is above the bound, when the first operand is. -/
theorem lt_deg_ra_euclidRun (t : Tables) {r1 r2 : Poly} {up : Int} (h : up < deg r1) :
    up < deg (euclidRun t r1 r2 up).ra :=
  euclidRun_induction (P := fun x => up < deg x.ra) (by simpa only [euclidStart, deg_trim] using h)
    fun _ hgt _ => hgt

/-- The fuel suffices: the degree of the remainder falls with every iteration. -/
theorem deg_rb_euclidRun_le {c : Config} (hc : primitive c = true) (r1 r2 : Poly) {up : Int} (hup : -1 ≤ up) :
    deg (euclidRun (builtTables c) r1 r2 up).rb ≤ up := by
  have hloop (fuel : Nat) (x : Euclid) (hx : deg x.rb < fuel) :
      deg (euclidLoop (builtTables c) up fuel x).rb ≤ up := by
    induction fuel generalizing x with
    | zero => rw [euclidLoop]; omega
    | succ fuel ih =>
      rw [euclidLoop]
      split_ifs with hgt
      · have hlt := deg_polyDivmod_snd_lt hc x.ra (b := x.rb) (by omega)
        exact ih _ (by simp only [euclidStep]; omega)
      · omega
  refine hloop _ _ ?_
  have hlen := length_trim r2
  simp only [euclidStart, deg_trim]
  omega

/-! The sequence of rule R173: remainders, quotients and cofactors. -/

/-- The quotient of iteration `k`. -/
def euclidQuotient (t : Tables) (r1 r2 : Poly) (k : Nat) : Poly :=
  (polyDivmod t (euclidAt t r1 r2 k).ra (euclidAt t r1 r2 k).rb).1

theorem trimmed_euclidAt_ra (t : Tables) (r1 r2 : Poly) (k : Nat) :
    Trimmed (euclidAt t r1 r2 k).ra ∧ Trimmed (euclidAt t r1 r2 k).rb := by
  induction k with
  | zero => exact ⟨trimmed_trim _, trimmed_trim _⟩
  | succ k ih => rw [euclidAt_succ]; exact ⟨ih.2, (trimmed_polyDivmod _ _ _).2⟩

/-- Two iterations in a row: the remainder falls, and the remainders and both cofactors follow one recurrence. -/
theorem euclidAt_recurrence {c : Config} (hc : primitive c = true) (r1 r2 : Poly) {k : Nat}
    (h : -1 < deg (euclidAt (builtTables c) r1 r2 k).rb) :
    let x (k : Nat) := euclidAt (builtTables c) r1 r2 k
    let q := euclidQuotient (builtTables c) r1 r2 k
    deg (x (k + 2)).ra < deg (x (k + 1)).ra ∧
    (x k).ra = polyAdd (polyMul (builtTables c) q (x (k + 1)).ra) (x (k + 2)).ra ∧
    (x (k + 2)).ua = polyAdd (x k).ua (polyMul (builtTables c) q (x (k + 1)).ua) ∧
    (x (k + 2)).va = polyAdd (x k).va (polyMul (builtTables c) q (x (k + 1)).va) := by
  simp only [euclidAt_succ]
  refine ⟨deg_polyDivmod_snd_lt hc _ (by omega), ?_, rfl, rfl⟩
  refine eq_of_trimmed (trimmed_euclidAt_ra _ _ _ _).1 (trimmed_trim _) fun i => ?_
  rw [coef_polyAdd, coef_polyMul]
  exact (convolve_polyDivmod hc _ (by omega) i).symm

/-! The identities. -/

/-- What the iterations keep of the polynomials: the identities of rules R171 and R173, the determinant of the
cofactors, and the bounds that let every value fit its register (rule R172). -/
structure EuclidInvariant {t : Tables} {K : Type} [Field K] (f : FieldView t K) (r1 r2 : K[X]) (d : Nat) (x : Euclid) :
    Prop where
  bezout_ra : f.poly x.ua * r1 + f.poly x.va * r2 = f.poly x.ra
  bezout_rb : f.poly x.ub * r1 + f.poly x.vb * r2 = f.poly x.rb
  det : f.poly x.ua * f.poly x.vb + f.poly x.ub * f.poly x.va = 1
  deg_ua_rb : (f.poly x.ua).natDegree + (f.poly x.rb).natDegree ≤ d
  deg_ub_ra : (f.poly x.ub).natDegree + (f.poly x.ra).natDegree ≤ d
  deg_va_rb : (f.poly x.va).natDegree + (f.poly x.rb).natDegree ≤ d
  deg_vb_ra : (f.poly x.vb).natDegree + (f.poly x.ra).natDegree ≤ d

section
variable {c : Config} (hc : primitive c = true) {K : Type} [Field K] (f : FieldView (builtTables c) K)
include hc

/-- Dividend = quotient · divisor + remainder, and the remainder is smaller (42_polynomial.md rule R147). -/
theorem FieldView.poly_polyDivmod (a : Poly) {b : Poly} (hb : 0 ≤ deg b) :
    f.poly a = f.poly (polyDivmod (builtTables c) a b).1 * f.poly b + f.poly (polyDivmod (builtTables c) a b).2 := by
  rw [← f.poly_polyMul, ← f.poly_polyAdd, f.poly_eq_iff]
  intro k
  rw [coef_polyAdd, coef_polyMul, convolve_polyDivmod hc a hb]

/-- An iteration moves degree from the remainders to a cofactor. -/
theorem FieldView.natDegree_cofactor_le {p q : Poly} {a b : Poly} (hb : 0 ≤ deg b) {d : Nat}
    (hp : (f.poly p).natDegree + (f.poly b).natDegree ≤ d) (hq : (f.poly q).natDegree + (f.poly a).natDegree ≤ d) :
    (f.poly q).natDegree + (f.poly (polyDivmod (builtTables c) a b).2).natDegree ≤ d ∧
    (f.poly (polyAdd p (polyMul (builtTables c) (polyDivmod (builtTables c) a b).1 q))).natDegree +
      (f.poly b).natDegree ≤ d := by
  obtain hlt | hge := lt_or_ge (deg a) (deg b)
  · rw [polyDivmod_of_lt _ hlt]
    simpa using ⟨hq, hp⟩
  · have hquot := deg_polyDivmod_fst hc hb hge
    have hrem := deg_polyDivmod_snd_lt hc a hb
    have hdeg_a := f.natDegree_poly (hb.trans hge)
    have hdeg_b := f.natDegree_poly hb
    have hdeg_quot := f.natDegree_poly (p := (polyDivmod (builtTables c) a b).1) (by omega)
    have hdeg_rem := f.natDegree_poly_le (p := (polyDivmod (builtTables c) a b).2) (n := (f.poly a).natDegree)
      |>.2 (by omega)
    have hmul := natDegree_mul_le (p := f.poly (polyDivmod (builtTables c) a b).1) (q := f.poly q)
    have hadd := natDegree_add_le (f.poly p) (f.poly (polyDivmod (builtTables c) a b).1 * f.poly q)
    rw [f.poly_polyAdd, f.poly_polyMul]
    omega

theorem EuclidInvariant.step {r1 r2 : K[X]} {d : Nat} {x : Euclid} (hx : EuclidInvariant f r1 r2 d x)
    (hrb : 0 ≤ deg x.rb) : EuclidInvariant f r1 r2 d (euclidStep (builtTables c) x) := by
  have hdiv := f.poly_polyDivmod hc x.ra hrb
  have hdeg_u := f.natDegree_cofactor_le hc hrb hx.deg_ua_rb hx.deg_ub_ra
  have hdeg_v := f.natDegree_cofactor_le hc hrb hx.deg_va_rb hx.deg_vb_ra
  refine ⟨hx.bezout_rb, ?_, ?_, hdeg_u.1, hdeg_u.2, hdeg_v.1, hdeg_v.2⟩
  · simp only [euclidStep, f.poly_polyAdd, f.poly_polyMul]
    linear_combination hx.bezout_ra + f.poly (polyDivmod (builtTables c) x.ra x.rb).1 * hx.bezout_rb + hdiv +
      f.poly (polyDivmod (builtTables c) x.ra x.rb).1 * f.poly x.rb * f.two_eq_zero
  · simp only [euclidStep, f.poly_polyAdd, f.poly_polyMul]
    linear_combination hx.det +
      f.poly x.ub * f.poly (polyDivmod (builtTables c) x.ra x.rb).1 * f.poly x.vb * f.two_eq_zero

theorem euclidInvariant_euclidRun (r1 r2 : Poly) {up : Int} (hup : -1 ≤ up) {d : Nat} (h1 : (f.poly r1).natDegree ≤ d)
    (h2 : (f.poly r2).natDegree ≤ d) :
    EuclidInvariant f (f.poly r1) (f.poly r2) d (euclidRun (builtTables c) r1 r2 up) := by
  refine euclidRun_induction ?_ fun x hgt hx => hx.step hc f (by omega)
  constructor <;> simp [euclidStart, h1, h2]

omit hc in
/-- The operands from the last two remainders, by Cramer's rule. -/
theorem EuclidInvariant.operands_eq {r1 r2 : K[X]} {d : Nat} {x : Euclid} (hx : EuclidInvariant f r1 r2 d x) :
    r1 = f.poly x.vb * f.poly x.ra + f.poly x.va * f.poly x.rb ∧
    r2 = f.poly x.ub * f.poly x.ra + f.poly x.ua * f.poly x.rb := by
  have htwo := f.two_eq_zero
  constructor
  · linear_combination f.poly x.vb * hx.bezout_ra + f.poly x.va * hx.bezout_rb - r1 * hx.det -
      f.poly x.vb * f.poly x.va * r2 * htwo
  · linear_combination f.poly x.ub * hx.bezout_ra + f.poly x.ua * hx.bezout_rb - r2 * hx.det -
      f.poly x.ub * f.poly x.ua * r1 * htwo

end

/-! The commands. -/

theorem exec_xgcd (s : State) (u v r a b : PIx) :
    exec (.xgcd u v r a b) s =
      .next (((s.setP u (euclidRun s.tables (s.getP a) (s.getP b) (-1)).ua).setP v
        (euclidRun s.tables (s.getP a) (s.getP b) (-1)).va).setP r
        (euclidRun s.tables (s.getP a) (s.getP b) (-1)).ra).complete := rfl

theorem exec_sugi_of_bound {s : State} (u v r a b : PIx) {c : RIx} (h : -1 ≤ (s.getR c).toInt) :
    exec (.sugi u v r a b c) s =
      .next (((s.setP u (euclidRun s.tables (s.getP a) (s.getP b) (s.getR c).toInt).ub).setP v
        (euclidRun s.tables (s.getP a) (s.getP b) (s.getR c).toInt).vb).setP r
        (euclidRun s.tables (s.getP a) (s.getP b) (s.getR c).toInt).rb).complete := by
  rw [exec, execSugi, State.sint, decide_eq_true h]
  rfl

end Sys2Proof.Machine
end

section
/-! SUPPORT. The locators of ELOC and BMLOC (44_locator.md rules R175 to R179): the tests of the commands, the degree of
the Euclidean cofactor, and what each step of the Berlekamp-Massey recurrence keeps. -/

namespace Sys2Proof.Machine
open Polynomial

/-! The tests on the erasure list, and the validation (rules R176, R177). -/

theorem erasureOperand_of_outOfRange {nsym : Nat} {e : Poly} (h : e.length > 255 ∨ ∃ p ∈ e, p.toNat > 254) :
    erasureOperand nsym e = .error .cmdOperand := by
  rw [erasureOperand, positionList_of_outOfRange h, bind_error]

theorem erasureOperand_of_inRange (nsym : Nat) {e : Poly} (hlen : e.length ≤ 255) (hpos : ∀ p ∈ e, p.toNat ≤ 254) :
    erasureOperand nsym e = require (e.length ≤ nsym) .uncCapacity := by
  rw [erasureOperand, positionList_eq_ok (u := ()).2 ⟨hlen, hpos⟩, bind_ok]

theorem erasureOperand_of_tooMany {nsym : Nat} {e : Poly} (hlen : e.length ≤ 255) (hpos : ∀ p ∈ e, p.toNat ≤ 254)
    (hcap : e.length > nsym) : erasureOperand nsym e = .error .uncCapacity := by
  rw [erasureOperand_of_inRange nsym hlen hpos, decide_eq_false hcap.not_ge, require_false]

theorem nodup_fieldElements : fieldElements.Nodup := by
  refine List.nodup_range.map_on fun i hi j hj h => ?_
  have hval := congrArg BitVec.toNat h
  simp only [BitVec.toNat_ofNat] at hval
  rw [List.mem_range] at hi hj
  omega

theorem mem_fieldElements (y : Byte) : y ∈ fieldElements :=
  List.mem_map.2 ⟨y.toNat, List.mem_range.2 y.isLt, (BitVec.ofNat_toNat _ y).trans (BitVec.setWidth_eq y)⟩

theorem nodup_scanRoots (t : Tables) (p : Poly) : (scanRoots t p).Nodup := nodup_fieldElements.filter _

theorem mem_scanRoots {t : Tables} {p : Poly} {y : Byte} : y ∈ scanRoots t p ↔ polyEval t p y = 0 := by
  simp only [scanRoots, List.mem_filter, mem_fieldElements, true_and, beq_iff_eq]

/-- The root-count gate (rule R191). -/
theorem findRoots_snd (t : Tables) (p : Poly) :
    (findRoots t p).2 = decide (((scanRoots t p).length : Int) = deg p) := by
  simp only [findRoots]
  split_ifs with h
  · rw [decide_eq_true h]
  · rw [decide_eq_false h]

/-- The end of both commands: the validation of the locator when it is asked for, then the write. -/
def State.endLocator (s : State) (d : PIx) (validate : Bool) (loc : Poly) (rho : Nat) : Answer :=
  s.perform do
    validateWhen validate s.tables loc rho s.nsymN
    pure (s.setP d loc)

section
variable {s : State} (d : PIx) {validate : Bool} {loc : Poly} {rho : Nat}

theorem endLocator_of_pass (h : validate = false ∨
    (2 * deg loc - rho ≤ s.nsym.toNat ∧ ((scanRoots s.tables loc).length : Int) = deg loc)) :
    s.endLocator d validate loc rho = .next (s.setP d loc).complete := by
  have hpass : validateWhen validate s.tables loc rho s.nsymN = .ok () := by
    cases validate with
    | false => rfl
    | true =>
      obtain ⟨hdeg, hroots⟩ := h.resolve_left (by decide)
      rw [validateWhen, if_pos rfl, validateLocator, findRoots_snd, State.nsymN, decide_eq_true hdeg,
        decide_eq_true hroots]
      rfl
  rw [State.endLocator, hpass]
  rfl

theorem endLocator_of_degree (hv : validate = true) (h : 2 * deg loc - rho > s.nsym.toNat) :
    s.endLocator d validate loc rho = .next (s.raise .uncCapacity) := by
  rw [State.endLocator, hv, validateWhen, if_pos rfl, validateLocator, State.nsymN, decide_eq_false h.not_ge]
  rfl

theorem endLocator_of_roots (hv : validate = true) (h : 2 * deg loc - rho ≤ s.nsym.toNat)
    (hroots : ((scanRoots s.tables loc).length : Int) ≠ deg loc) :
    s.endLocator d validate loc rho = .next (s.raise .uncFactor) := by
  rw [State.endLocator, hv, validateWhen, if_pos rfl, validateLocator, findRoots_snd, State.nsymN, decide_eq_true h,
    decide_eq_false hroots]
  rfl

end

theorem exec_eloc_of_refused {s : State} (d x : PIx) {e : PIx} (validate : Bool) {c : Cause}
    (h : erasureOperand s.nsym.toNat (s.getP e) = .error c) :
    exec (.eloc d x e validate) s = .next (s.raise c) := by
  rw [exec, execEloc, State.nsymN, h]
  rfl

theorem exec_bmloc_of_refused {s : State} (d x : PIx) {e : PIx} (validate : Bool) {c : Cause}
    (h : erasureOperand s.nsym.toNat (s.getP e) = .error c) :
    exec (.bmloc d x e validate) s = .next (s.raise c) := by
  rw [exec, execBmloc, State.nsymN, h]
  rfl

/-- The cofactor `v` of rule R175. -/
def euclidCofactor (t : Tables) (syn e : Poly) (nsym : Nat) : Poly :=
  (euclidRun t (xPow nsym) (evaluator t syn (erasLoc t e) nsym) (((nsym + e.length) / 2 : Nat) - 1)).vb

theorem euclidLocator_of_zero {t : Tables} {syn e : Poly} {nsym : Nat} (h : coef (euclidCofactor t syn e nsym) 0 = 0) :
    euclidLocator t syn e nsym = .error .uncLambda0 := by
  have hreq : require (coef (euclidCofactor t syn e nsym) 0 ≠ 0) .uncLambda0 = .error .uncLambda0 := by
    rw [decide_eq_false (not_not.2 h)]
    rfl
  exact congrArg (· >>= _) hreq

/-- The locator of rule R175 for the cofactor `v` and the erasure locator `g`: the product, normalised. -/
def normalLocator (t : Tables) (v g : Poly) : Poly := polyScale t (polyMul t v g) (gfInv t (coef v 0))

theorem euclidLocator_of_ne_zero {t : Tables} {syn e : Poly} {nsym : Nat}
    (h : coef (euclidCofactor t syn e nsym) 0 ≠ 0) :
    euclidLocator t syn e nsym = .ok (normalLocator t (euclidCofactor t syn e nsym) (erasLoc t e)) := by
  have hreq : require (coef (euclidCofactor t syn e nsym) 0 ≠ 0) .uncLambda0 = .ok () := by
    rw [decide_eq_true h]
    rfl
  exact congrArg (· >>= _) hreq

section
variable {s : State} (d x : PIx) {e : PIx} (validate : Bool) (hlen : (s.getP e).length ≤ 255)
  (hpos : ∀ p ∈ s.getP e, p.toNat ≤ 254) (hcap : (s.getP e).length ≤ s.nsym.toNat)
include hlen hpos hcap

theorem exec_eloc_of_zero
    (h : coef (euclidCofactor s.tables (firstCoefs (s.getP x) s.nsym.toNat) (s.getP e) s.nsym.toNat) 0 = 0) :
    exec (.eloc d x e validate) s = .next (s.raise .uncLambda0) := by
  rw [exec, execEloc, State.nsymN, erasureOperand_of_inRange _ hlen hpos, decide_eq_true hcap,
    euclidLocator_of_zero h]
  rfl

theorem exec_eloc_of_ne_zero
    (h : coef (euclidCofactor s.tables (firstCoefs (s.getP x) s.nsym.toNat) (s.getP e) s.nsym.toNat) 0 ≠ 0) :
    exec (.eloc d x e validate) s = s.endLocator d validate
      (normalLocator s.tables (euclidCofactor s.tables (firstCoefs (s.getP x) s.nsym.toNat) (s.getP e) s.nsym.toNat)
        (erasLoc s.tables (s.getP e))) (s.getP e).length := by
  rw [exec, execEloc, State.nsymN, erasureOperand_of_inRange _ hlen hpos, decide_eq_true hcap,
    euclidLocator_of_ne_zero h]
  rfl

theorem exec_bmloc_of_inRange :
    exec (.bmloc d x e validate) s =
      s.endLocator d validate (bmLocator s.tables (firstCoefs (s.getP x) s.nsym.toNat) (s.getP e) s.nsym.toNat)
        (s.getP e).length := by
  rw [exec, execBmloc, State.nsymN, erasureOperand_of_inRange _ hlen hpos, decide_eq_true hcap]
  rfl

end

/-! The Euclidean locator (rule R175). -/

theorem coef_normalLocator (t : Tables) (v g : Poly) (k : Nat) :
    coef (normalLocator t v g) k = gfMul t (coef (polyMul t v g) k) (gfInv t (coef v 0)) :=
  coef_polyScale _ _ _ _

theorem trimmed_normalLocator (t : Tables) (v g : Poly) : Trimmed (normalLocator t v g) := trimmed_trim _

theorem coef_zero_polyMul (t : Tables) (a b : Poly) : coef (polyMul t a b) 0 = gfMul t (coef a 0) (coef b 0) := by
  rw [coef_polyMul, convolve, xorSum_succ]
  exact zero_xor_byte _

theorem coef_zero_normalLocator {c : Config} (hc : primitive c = true) {v g : Poly} (hv : coef v 0 ≠ 0)
    (hg : coef g 0 = 1) : coef (normalLocator (builtTables c) v g) 0 = 1 := by
  rw [coef_normalLocator, coef_zero_polyMul, hg, gfMul_built_one hc, gfMul_built_gfInv hc hv]

theorem FieldView.poly_normalLocator {t : Tables} {K : Type} [Field K] (f : FieldView t K) (v g : Poly) :
    f.poly (normalLocator t v g) = C (f.el (gfInv t (coef v 0))) * (f.poly v * f.poly g) := by
  rw [normalLocator, f.poly_polyScale, f.poly_polyMul]

theorem normalLocator_one {c : Config} (hc : primitive c = true) {g : Poly} (hg : Trimmed g) :
    normalLocator (builtTables c) [1] g = g := by
  obtain ⟨K, _, ⟨f⟩⟩ := exists_fieldView hc
  have hone : f.poly [1] = 1 := f.poly_one
  refine f.poly_injOn_trimmed (trimmed_normalLocator _ _ _) hg ?_
  rw [f.poly_normalLocator, hone, one_mul, coef_cons_zero, gfInv_built_one hc, f.el_one, C_1, one_mul]

section
variable {c : Config} (hc : primitive c = true) {K : Type} [Field K] (f : FieldView (builtTables c) K)
include hc

theorem natDegree_poly_erasLoc (e : Poly) : (f.poly (erasLoc (builtTables c) e)).natDegree = e.length := by
  have hlen := length_of_trimmed (trimmed_erasLoc hc e)
  rw [length_erasLoc hc] at hlen
  have hdeg := f.natDegree_poly (p := erasLoc (builtTables c) e) (by omega)
  omega

omit hc in
/-- The evaluator is the product without the lanes from `nsym` on (43_syndrome.md rule R165). -/
theorem coeff_poly_evaluator (syn loc : Poly) (nsym k : Nat) :
    (f.poly (evaluator (builtTables c) syn loc nsym)).coeff k =
      if k < nsym then (f.poly syn * f.poly loc).coeff k else 0 := by
  rw [f.coeff_poly, evaluator, coef_trim, coef_map_range, apply_ite f.el, f.el_convolve, f.el_zero]

omit hc in
theorem natDegree_poly_evaluator_le (syn loc : Poly) (nsym : Nat) :
    (f.poly (evaluator (builtTables c) syn loc nsym)).natDegree ≤ nsym :=
  natDegree_le_iff_coeff_eq_zero.2 fun k hk => by rw [coeff_poly_evaluator, if_neg (by omega)]

omit hc in
/-- The erasure-modified syndrome is the product, up to x^nsym. -/
theorem X_pow_dvd_sub_evaluator (syn loc : Poly) (nsym : Nat) :
    X ^ nsym ∣ f.poly loc * f.poly syn - f.poly (evaluator (builtTables c) syn loc nsym) :=
  X_pow_dvd_iff.2 fun j hj => by rw [coeff_sub, coeff_poly_evaluator, if_pos hj, mul_comm, sub_self]

/-- The loop from x^n, stopped below the degree `m`: the last remainder is below it and the one before is not. -/
theorem euclidRun_xPow_spec {r2 : Poly} {m n : Nat} (hm : m ≤ n) (h2 : (f.poly r2).natDegree ≤ n) :
    let x := euclidRun (builtTables c) (xPow n) r2 (m - 1)
    EuclidInvariant f (X ^ n) (f.poly r2) n x ∧ deg x.rb < m ∧ m ≤ (f.poly x.ra).natDegree := by
  intro x
  have hdeg := deg_xPow n
  have hinv : EuclidInvariant f (f.poly (xPow n)) (f.poly r2) n x :=
    euclidInvariant_euclidRun hc f _ _ (by omega) (f.natDegree_poly_le.2 hdeg.le) h2
  have hrb : deg x.rb ≤ m - 1 := deg_rb_euclidRun_le hc _ _ (by omega)
  have hra : m - 1 < deg x.ra := lt_deg_ra_euclidRun _ (by omega)
  have hdeg_ra := f.natDegree_poly (p := x.ra) (by omega)
  rw [f.poly_xPow] at hinv
  exact ⟨hinv, by omega, by omega⟩

/-- The loop of rule R175. -/
theorem euclidCofactor_spec (syn e : Poly) {nsym : Nat} (hcap : e.length ≤ nsym) :
    ∃ x, x.vb = euclidCofactor (builtTables c) syn e nsym ∧
      EuclidInvariant f (X ^ nsym) (f.poly (evaluator (builtTables c) syn (erasLoc (builtTables c) e) nsym)) nsym x ∧
      deg x.rb < ((nsym + e.length) / 2 : Nat) ∧ (nsym + e.length) / 2 ≤ (f.poly x.ra).natDegree :=
  ⟨_, rfl, euclidRun_xPow_spec hc f (by omega) (natDegree_poly_evaluator_le f _ _ _)⟩

theorem natDegree_euclidCofactor_le (syn e : Poly) {nsym : Nat} (hcap : e.length ≤ nsym) :
    (f.poly (euclidCofactor (builtTables c) syn e nsym)).natDegree + (nsym + e.length) / 2 ≤ nsym := by
  obtain ⟨x, hx, hinv, -, hra⟩ := euclidCofactor_spec hc f syn e hcap
  have hdeg := hinv.deg_vb_ra
  rw [← hx]
  omega

end

theorem deg_normalLocator_le {c : Config} (hc : primitive c = true) (syn e : Poly) {nsym : Nat}
    (hcap : e.length ≤ nsym) :
    deg (normalLocator (builtTables c) (euclidCofactor (builtTables c) syn e nsym) (erasLoc (builtTables c) e)) ≤
      nsym := by
  obtain ⟨K, _, ⟨f⟩⟩ := exists_fieldView hc
  have hv := natDegree_euclidCofactor_le hc f syn e hcap
  have hg := natDegree_poly_erasLoc hc f e
  refine f.natDegree_poly_le.1 ?_
  rw [f.poly_normalLocator]
  refine (natDegree_C_mul_le _ _).trans (natDegree_mul_le.trans ?_)
  omega

/-! The Berlekamp-Massey recurrence (rule R178). -/

theorem xorSum_of_le {m n : Nat} (h : n ≤ m) {g : Nat → Byte} (hg : ∀ i, n ≤ i → g i = 0) :
    xorSum m g = xorSum n g := by
  induction m, h using Nat.le_induction with
  | base => rfl
  | succ m hle ih => rw [xorSum_succ, ih, hg m hle, xor_zero_byte]

/-- The discrepancy is a coefficient of the product of locator and syndrome. -/
theorem FieldView.el_discrepancy {t : Tables} {K : Type} [Field K] (f : FieldView t K) (loc syn : Poly) (k : Nat) :
    f.el (discrepancy t loc syn k) = (f.poly loc * f.poly syn).coeff k := by
  rw [← f.el_convolve, convolve, discrepancy]
  congr 1
  by_cases hk : (k : Int) ≤ deg loc
  · rw [min_eq_left hk]
    rfl
  · refine (xorSum_of_le (by omega) fun i hi => ?_).symm
    rw [coef_eq_zero_of_deg_lt (by omega), zero_gfMul]

/-- A step changes the length only at a discrepancy. -/
theorem shiftStep_length (t : Tables) (syn : Poly) (rho : Nat) (x : Shift) (k : Nat) :
    (shiftStep t syn rho x k).l = x.l ∨
    (discrepancy t x.c syn k ≠ 0 ∧ (shiftStep t syn rho x k).l = k + 1 + rho - x.l) := by
  simp only [shiftStep]
  split_ifs with hzero hlen
  · exact .inl rfl
  · exact .inr ⟨hzero, rfl⟩
  · exact .inl rfl

/-- What the start has at index `rho` and step `k` carries from `k` to `k + 1`, the end has. -/
theorem shiftRun_induction {t : Tables} {syn : Poly} {rho n : Nat} {x : Shift} {P : Nat → Shift → Prop}
    (start : P rho x)
    (step : ∀ k x, rho ≤ k → k < rho + n → P k x → P (k + 1) (shiftStep t syn rho x k)) :
    P (rho + n) ((List.range' rho n).foldl (shiftStep t syn rho) x) := by
  induction n with
  | zero => exact start
  | succ n ih =>
    rw [List.range'_1_concat, List.foldl_append]
    rw [← Nat.add_assoc]
    exact step _ _ (Nat.le_add_right _ _) (Nat.lt_succ_self _) (ih fun k x hk hlt => step k x hk (by omega))

/-- The locator with the correction of step `k`. -/
def corrected (t : Tables) (syn : Poly) (x : Shift) (k : Nat) : Poly :=
  polyAdd x.c (polyScale t (polyMul t (xPow x.m) x.b) (discrepancy t x.c syn k))

theorem FieldView.poly_corrected {t : Tables} {K : Type} [Field K] (f : FieldView t K) (syn : Poly) (x : Shift)
    (k : Nat) :
    f.poly (corrected t syn x k) =
      f.poly x.c + C (f.el (discrepancy t x.c syn k)) * (X ^ x.m * f.poly x.b) := by
  rw [corrected, f.poly_polyAdd, f.poly_polyScale, f.poly_polyMul, f.poly_xPow]

/-- What the steps keep of the polynomials, `g` being the erasure locator and `syn` the syndrome: the locator `c` and
the correction term `b` are multiples of `g` of bounded degree, `c` has constant term 1, `c` solves the recurrence of
length `l` up to index `k`, and the shifted correction term does so but for the value 1 at index `k`. -/
structure ShiftInvariant {t : Tables} {K : Type} [Field K] (f : FieldView t K) (syn g : K[X])
    (rho k : Nat) (x : Shift) : Prop where
  rho_le : rho ≤ x.l
  le_index : x.l ≤ k
  shift_pos : 0 < x.m
  coeff_zero : (f.poly x.c).coeff 0 = 1
  dvd_c : g ∣ f.poly x.c
  dvd_b : g ∣ f.poly x.b
  deg_c : (f.poly x.c).natDegree ≤ x.l
  deg_b : (f.poly x.b).natDegree + x.m + x.l ≤ k + 1 + rho
  solves : ∀ j, x.l ≤ j → j < k → (f.poly x.c * syn).coeff j = 0
  corrects : ∀ j, k + 1 + rho ≤ j + x.l → j ≤ k → (X ^ x.m * f.poly x.b * syn).coeff j = if j = k then 1 else 0

section
variable {c : Config} (hc : primitive c = true) {K : Type} [Field K] (f : FieldView (builtTables c) K)

theorem shiftInvariant_start {g : Poly} (syn : K[X]) (hg : coef g 0 = 1) {rho : Nat}
    (hdeg : (f.poly g).natDegree ≤ rho) :
    ShiftInvariant f syn (f.poly g) rho rho { c := g, b := g, l := rho, m := 1 } where
  rho_le := le_rfl
  le_index := le_rfl
  shift_pos := one_pos
  coeff_zero := by rw [f.coeff_poly, hg, f.el_one]
  dvd_c := dvd_rfl
  dvd_b := dvd_rfl
  deg_c := hdeg
  deg_b := by dsimp only; omega
  solves := fun j hge hlt => absurd hlt hge.not_gt
  corrects := fun j hge hle => by dsimp only at hge; omega

/-- The correction term moved up one index. -/
theorem coeff_X_pow_succ_mul {m j : Nat} (hj : 0 < j) (p q : K[X]) :
    (X ^ (m + 1) * p * q).coeff j = (X ^ m * p * q).coeff (j - 1) := by
  obtain ⟨j, rfl⟩ := Nat.exists_eq_succ_of_ne_zero hj.ne'
  rw [pow_succ', mul_assoc, mul_assoc, ← mul_assoc (X ^ m), coeff_X_mul, Nat.succ_sub_one]

section
variable {syn g : Poly} {rho k : Nat} {x : Shift} (hx : ShiftInvariant f (f.poly syn) (f.poly g) rho k x)
include hx

theorem ShiftInvariant.coeff_zero_corrected : (f.poly (corrected (builtTables c) syn x k)).coeff 0 = 1 := by
  rw [f.poly_corrected, coeff_add, hx.coeff_zero, coeff_C_mul, mul_coeff_zero, coeff_X_pow, if_neg hx.shift_pos.ne,
    zero_mul, mul_zero, add_zero]

theorem ShiftInvariant.dvd_corrected : f.poly g ∣ f.poly (corrected (builtTables c) syn x k) := by
  rw [f.poly_corrected]
  exact dvd_add hx.dvd_c ((hx.dvd_b.mul_left _).mul_left _)

theorem ShiftInvariant.natDegree_corrected_le :
    (f.poly (corrected (builtTables c) syn x k)).natDegree ≤ max x.l (k + 1 + rho - x.l) := by
  have hdeg_c := hx.deg_c
  have hdeg_b := hx.deg_b
  have hmul := natDegree_mul_le (p := X ^ x.m) (q := f.poly x.b)
  rw [natDegree_X_pow] at hmul
  rw [f.poly_corrected]
  refine (natDegree_add_le _ _).trans (max_le_max hdeg_c ((natDegree_C_mul_le _ _).trans ?_))
  omega

/-- The correction cancels the discrepancy at `k`, and the lower indices keep their 0 from the greater of the two
lengths on. -/
theorem ShiftInvariant.coeff_corrected_mul {j : Nat} (hl : x.l ≤ j) (hlen : k + 1 + rho ≤ j + x.l) (hle : j ≤ k) :
    (f.poly (corrected (builtTables c) syn x k) * f.poly syn).coeff j = 0 := by
  have htwo := f.charP_two
  rw [f.poly_corrected, add_mul, coeff_add, mul_assoc, coeff_C_mul, hx.corrects j hlen hle]
  obtain hlt | rfl := hle.lt_or_eq
  · rw [hx.solves j hl hlt, if_neg hlt.ne, mul_zero, add_zero]
  · rw [if_pos rfl, mul_one, f.el_discrepancy, CharTwo.add_self_eq_zero]

theorem ShiftInvariant.corrects_succ {j : Nat} (hlen : k + 2 + rho ≤ j + x.l) (hle : j ≤ k + 1) :
    (X ^ (x.m + 1) * f.poly x.b * f.poly syn).coeff j = if j = k + 1 then 1 else 0 := by
  have hl := hx.le_index
  have hrho := hx.rho_le
  rw [coeff_X_pow_succ_mul (by omega), hx.corrects (j - 1) (by omega) (by omega)]
  simp only [show j - 1 = k ↔ j = k + 1 by omega]

/-- Without a discrepancy the locator solves the recurrence at the next index as it is. -/
theorem ShiftInvariant.wait (hy : discrepancy (builtTables c) x.c syn k = 0) :
    ShiftInvariant f (f.poly syn) (f.poly g) rho (k + 1) { x with m := x.m + 1 } where
  rho_le := hx.rho_le
  le_index := Nat.le_succ_of_le hx.le_index
  shift_pos := Nat.succ_pos _
  coeff_zero := hx.coeff_zero
  dvd_c := hx.dvd_c
  dvd_b := hx.dvd_b
  deg_c := hx.deg_c
  deg_b := by have := hx.deg_b; dsimp only; omega
  solves j hl hlt := by
    obtain hlt | rfl := Nat.lt_succ_iff_lt_or_eq.1 hlt
    · exact hx.solves j hl hlt
    · rw [← f.el_discrepancy, hy, f.el_zero]
  corrects j hl hle := hx.corrects_succ f (by dsimp only at hl; omega) hle

/-- A correction whose length is already reached leaves the length and the correction term. -/
theorem ShiftInvariant.correct (hlen : ¬ 2 * x.l ≤ k + rho) :
    ShiftInvariant f (f.poly syn) (f.poly g) rho (k + 1)
      { x with c := corrected (builtTables c) syn x k, m := x.m + 1 } where
  rho_le := hx.rho_le
  le_index := Nat.le_succ_of_le hx.le_index
  shift_pos := Nat.succ_pos _
  coeff_zero := hx.coeff_zero_corrected f
  dvd_c := hx.dvd_corrected f
  dvd_b := hx.dvd_b
  deg_c := by have := hx.natDegree_corrected_le f; dsimp only; omega
  deg_b := by have := hx.deg_b; dsimp only; omega
  solves j hl hlt := by
    dsimp only at hl
    exact hx.coeff_corrected_mul f hl (by omega) (by omega)
  corrects j hl hle := hx.corrects_succ f (by dsimp only at hl; omega) hle

include hc in
/-- A correction that lengthens the recurrence makes the old locator, divided by the discrepancy, the correction
term. -/
theorem ShiftInvariant.lengthen (hy : discrepancy (builtTables c) x.c syn k ≠ 0) (hlen : 2 * x.l ≤ k + rho) :
    ShiftInvariant f (f.poly syn) (f.poly g) rho (k + 1)
      { c := corrected (builtTables c) syn x k
        b := polyScale (builtTables c) x.c (gfInv (builtTables c) (discrepancy (builtTables c) x.c syn k))
        l := k + 1 + rho - x.l
        m := 1 } where
  rho_le := by have := hx.le_index; dsimp only; omega
  le_index := by have := hx.rho_le; dsimp only; omega
  shift_pos := one_pos
  coeff_zero := hx.coeff_zero_corrected f
  dvd_c := hx.dvd_corrected f
  dvd_b := by
    rw [f.poly_polyScale]
    exact hx.dvd_c.mul_left _
  deg_c := by have := hx.natDegree_corrected_le f; dsimp only; omega
  deg_b := by
    have hscale := natDegree_C_mul_le
      (f.el (gfInv (builtTables c) (discrepancy (builtTables c) x.c syn k))) (f.poly x.c)
    have hdeg := hx.deg_c
    rw [f.poly_polyScale]
    dsimp only
    omega
  solves j hl hlt := by
    dsimp only at hl
    exact hx.coeff_corrected_mul f (by omega) (by omega) (by omega)
  corrects j hl hle := by
    have hindex := hx.le_index
    dsimp only at hl
    rw [← Nat.zero_add 1, coeff_X_pow_succ_mul (by omega), pow_zero, one_mul, f.poly_polyScale, mul_assoc, coeff_C_mul]
    obtain hlt | rfl := hle.lt_or_eq
    · rw [hx.solves (j - 1) (by omega) (by omega), mul_zero, if_neg (by omega)]
    · rw [if_pos rfl, Nat.add_sub_cancel, ← f.el_discrepancy, ← f.el_gfMul, gfMul_comm, gfMul_built_gfInv hc hy,
        f.el_one]

include hc in
theorem ShiftInvariant.step :
    ShiftInvariant f (f.poly syn) (f.poly g) rho (k + 1) (shiftStep (builtTables c) syn rho x k) := by
  simp only [shiftStep]
  split_ifs with hy hlen
  · exact hx.wait f hy
  · exact hx.lengthen hc f hy hlen
  · exact hx.correct f hlen

end

include hc

/-- The invariant after all steps. -/
theorem bmLocator_spec (syn e : Poly) {nsym : Nat} (hcap : e.length ≤ nsym) :
    ∃ x, f.poly (bmLocator (builtTables c) syn e nsym) = f.poly x.c ∧
      ShiftInvariant f (f.poly syn) (f.poly (erasLoc (builtTables c) e)) e.length nsym x := by
  have hinv := shiftRun_induction (n := nsym - e.length)
    (P := ShiftInvariant f (f.poly syn) (f.poly (erasLoc (builtTables c) e)) e.length)
    (shiftInvariant_start f (f.poly syn) (coef_zero_erasLoc hc e) (natDegree_poly_erasLoc hc f e).le)
    fun k x _ _ hx => hx.step hc f
  rw [Nat.add_sub_cancel' hcap] at hinv
  exact ⟨_, f.poly_trim _, hinv⟩

end

/-! A zero syndrome. -/

theorem bmLocator_of_zero (t : Tables) {syn : Poly} (h : ∀ k, coef syn k = 0) (e : Poly) (nsym : Nat) :
    bmLocator t syn e nsym = trim (erasLoc t e) := by
  have hdisc (loc : Poly) (k : Nat) : discrepancy t loc syn k = 0 := by
    simp only [discrepancy, h, gfMul_zero, xorSum_zero]
  have hstep (ks : List Nat) (x : Shift) : (ks.foldl (shiftStep t syn e.length) x).c = x.c := by
    induction ks generalizing x with
    | nil => rfl
    | cons k ks ih => rw [List.foldl_cons, ih, shiftStep, if_pos (hdisc _ _)]
  rw [bmLocator, hstep]

theorem evaluator_of_zero (t : Tables) {syn : Poly} (h : ∀ k, coef syn k = 0) (loc : Poly) (nsym : Nat) :
    evaluator t syn loc nsym = [] := by
  refine trim_eq_nil.2 fun k => ?_
  rw [coef_map_range, convolve_eq_zero fun i _ => .inl (h i), ite_self]

theorem euclidCofactor_of_zero (t : Tables) {syn : Poly} (h : ∀ k, coef syn k = 0) (e : Poly) (nsym : Nat) :
    euclidCofactor t syn e nsym = [1] := by
  have hnil : deg [] = -1 := rfl
  rw [euclidCofactor, evaluator_of_zero t h, euclidRun_of_le t (by omega)]
  rfl

theorem coef_firstCoefs (p : Poly) (n k : Nat) : coef (firstCoefs p n) k = if k < n then coef p k else 0 :=
  coef_map_range _ _ _

end Sys2Proof.Machine
end

section
/-! SUPPORT. Within capacity (44_locator.md rule R180): the syndrome as a sum of geometric series, the key equation of
the locator, and that every solution of small degree is a multiple of it. -/

namespace Sys2Proof.Machine
open Polynomial

/-! The key equation, over any field: `a p` locates the position `p`, `y p` is its magnitude. -/

section
variable {K : Type} [Field K] (a y : Nat → K) (s : Finset Nat)

/-- The product of the factors 1 - a(p) x. -/
noncomputable def locatorProd : K[X] := ∏ p ∈ s, (1 - C (a p) * X)

/-- The evaluator of the locator: the terms of the syndrome over their common denominator. -/
noncomputable def evaluatorSum : K[X] := ∑ p ∈ s, C (y p) * locatorProd a (s.erase p)

/-- The syndrome of the magnitudes `y`: the coefficient of x^i is the sum of the y(p) a(p)^i. -/
noncomputable def seriesSum (n : Nat) : K[X] := ∑ p ∈ s, C (y p) * ∑ i ∈ Finset.range n, (C (a p) * X) ^ i

theorem coeff_seriesSum (n i : Nat) :
    (seriesSum a y s n).coeff i = if i < n then ∑ p ∈ s, y p * a p ^ i else 0 := by
  have hterm (p : Nat) : (∑ i ∈ Finset.range n, (C (a p) * X) ^ i).coeff i = if i < n then a p ^ i else 0 := by
    simp only [finsetSum_coeff, mul_pow, ← C_pow, coeff_C_mul_X_pow, Finset.sum_ite_eq, Finset.mem_range]
  simp only [seriesSum, finsetSum_coeff, coeff_C_mul, hterm]
  split_ifs with hi
  · rfl
  · exact Finset.sum_eq_zero fun p _ => mul_zero _

/-- The syndrome is the evaluator divided by the locator, up to x^n. -/
theorem X_pow_dvd_keyEquation (n : Nat) : X ^ n ∣ locatorProd a s * seriesSum a y s n - evaluatorSum a y s := by
  rw [seriesSum, evaluatorSum, Finset.mul_sum, ← Finset.sum_sub_distrib]
  refine Finset.dvd_sum fun p hp => ⟨-(C (y p) * locatorProd a (s.erase p) * C (a p ^ n)), ?_⟩
  have hgeom := mul_neg_geom_sum (C (a p) * X) n
  have hsplit : locatorProd a s = (1 - C (a p) * X) * locatorProd a (s.erase p) :=
    (Finset.mul_prod_erase s _ hp).symm
  rw [hsplit, C_pow]
  linear_combination C (y p) * locatorProd a (s.erase p) * hgeom

theorem coeff_zero_locatorProd : (locatorProd a s).coeff 0 = 1 := by
  simp [locatorProd, coeff_zero_prod]

variable {a y s} (ha : ∀ p, a p ≠ 0)
include ha

theorem one_sub_C_mul_X_eq (p : Nat) : 1 - C (a p) * X = C (-a p) * (X - C (a p)⁻¹) := by
  rw [mul_sub, ← C_mul, neg_mul, mul_inv_cancel₀ (ha p), C_neg, C_neg, C_1]
  ring

theorem natDegree_locatorProd : (locatorProd a s).natDegree = s.card := by
  have hfactor (p : Nat) : (1 - C (a p) * X).natDegree = 1 := by
    rw [one_sub_C_mul_X_eq ha, natDegree_C_mul (neg_ne_zero.2 (ha p)), natDegree_X_sub_C]
  have hne (p : Nat) : 1 - C (a p) * X ≠ 0 := ne_zero_of_natDegree_gt (n := 0) (by rw [hfactor]; exact one_pos)
  rw [locatorProd, natDegree_prod _ _ fun p _ => hne p]
  simp only [hfactor, Finset.sum_const, smul_eq_mul, mul_one]

theorem degree_evaluatorSum_lt : (evaluatorSum a y s).degree < s.card := by
  rw [← mem_degreeLT]
  refine Submodule.sum_mem _ fun p hp => mem_degreeLT.2 ?_
  have hmul := natDegree_C_mul_le (y p) (locatorProd a (s.erase p))
  have hcard := Finset.card_erase_lt_of_mem hp
  rw [natDegree_locatorProd ha] at hmul
  exact degree_le_natDegree.trans_lt (Nat.cast_lt.2 (by omega))

/-- At the root of the factor of `p` the evaluator keeps the one term of `p`, which is not 0. -/
theorem isCoprime_factor_evaluatorSum (hinj : Set.InjOn a s) {p : Nat} (hp : p ∈ s) (hy : y p ≠ 0) :
    IsCoprime (1 - C (a p) * X) (evaluatorSum a y s) := by
  have hunit : IsUnit (C (-a p)) := isUnit_C.2 (neg_ne_zero.2 (ha p)).isUnit
  have heval (t : Finset Nat) : (locatorProd a t).eval (a p)⁻¹ = ∏ q ∈ t, (1 - a q * (a p)⁻¹) := by
    simp [locatorProd, eval_prod]
  rw [one_sub_C_mul_X_eq ha, isCoprime_mul_unit_left_left hunit, (irreducible_X_sub_C _).coprime_iff_not_dvd,
    dvd_iff_isRoot, IsRoot, evaluatorSum, eval_finsetSum, Finset.sum_eq_single_of_mem p hp fun q _ hqp => ?_, eval_mul,
    eval_C, heval]
  · refine mul_ne_zero hy (Finset.prod_ne_zero_iff.2 fun q hq h0 => ?_)
    obtain ⟨hne, hq⟩ := Finset.mem_erase.1 hq
    exact hne (hinj hq hp ((mul_inv_eq_one₀ (ha p)).1 (sub_eq_zero.1 h0).symm))
  · rw [eval_mul, heval, Finset.prod_eq_zero (Finset.mem_erase.2 ⟨hqp.symm, hp⟩)
      (by rw [mul_inv_cancel₀ (ha p), sub_self]), mul_zero]

theorem isCoprime_locatorProd_evaluatorSum (hinj : Set.InjOn a s) {t : Finset Nat} (ht : t ⊆ s)
    (hy : ∀ p ∈ t, y p ≠ 0) :
    IsCoprime (locatorProd a t) (evaluatorSum a y s) :=
  IsCoprime.prod_left fun p hp => isCoprime_factor_evaluatorSum ha hinj (ht hp) (hy p hp)

end

/-! Solutions of the key equation. -/

section
variable {K : Type} [Field K]

theorem degree_mul_lt {p q : K[X]} {m n k : Nat} (hp : p.natDegree ≤ m) (hq : q.degree < n) (h : m + n ≤ k) :
    (p * q).degree < k := by
  by_cases hzero : q = 0
  · rw [hzero, mul_zero, degree_zero]
    exact WithBot.bot_lt_coe k
  · have hlt := (natDegree_lt_iff_degree_lt hzero).2 hq
    exact degree_le_natDegree.trans_lt (Nat.cast_lt.2 (natDegree_mul_le.trans_lt (by omega)))

/-- Two solutions of one key equation are proportional when the products of their degrees stay below the index. -/
theorem mul_eq_mul_of_keyEquation {loc syn ev v r : K[X]} {k : Nat} (h : X ^ k ∣ loc * syn - ev)
    (hv : X ^ k ∣ v * syn - r) (hr : (loc * r).degree < k) (hev : (v * ev).degree < k) : loc * r = v * ev := by
  refine sub_eq_zero.1 (eq_zero_of_dvd_of_degree_lt (p := X ^ k) ?_ ?_)
  · rw [show loc * r - v * ev = v * (loc * syn - ev) - loc * (v * syn - r) by ring]
    exact dvd_sub (h.mul_left _) (hv.mul_left _)
  · rw [degree_X_pow]
    exact (degree_sub_le _ _).trans_lt (max_lt hr hev)

/-- A product whose coefficients from `l` up to `k` are 0 has a remainder of degree below `l` modulo x^k. -/
theorem exists_remainder {p : K[X]} {l k : Nat} (h : ∀ j, l ≤ j → j < k → p.coeff j = 0) :
    ∃ r : K[X], r.degree < l ∧ X ^ k ∣ p - r := by
  have hcoeff (j : Nat) : (∑ i ∈ Finset.range l, monomial i (p.coeff i)).coeff j = if j < l then p.coeff j else 0 := by
    simp only [finsetSum_coeff, coeff_monomial, Finset.sum_ite_eq', Finset.mem_range]
  refine ⟨∑ i ∈ Finset.range l, monomial i (p.coeff i), (degree_lt_iff_coeff_zero _ _).2 fun j hj => ?_,
    X_pow_dvd_iff.2 fun j hj => ?_⟩
  · rw [hcoeff, if_neg hj.not_gt]
  · rw [coeff_sub, hcoeff]
    split_ifs with hl
    · exact sub_self _
    · rw [sub_zero, h j (by omega) hj]

theorem isCoprime_X_pow {p : K[X]} (h : p.coeff 0 = 1) (k : Nat) : IsCoprime (X ^ k) p := by
  refine IsCoprime.pow_left (irreducible_X.coprime_iff_not_dvd.2 fun hdvd => ?_)
  rw [X_dvd_iff, h] at hdvd
  exact one_ne_zero hdvd

/-- A locator `loc` of `t` positions beyond the erasures `g`, which solves the key equation of the syndrome `syn` with
the evaluator `ev`, within capacity. -/
structure WithinCapacity (syn g loc ev : K[X]) (rho t nsym : Nat) : Prop where
  key : X ^ nsym ∣ loc * (g * syn) - ev
  coprime : IsCoprime loc ev
  coeff_zero : loc.coeff 0 = 1
  deg_loc : loc.natDegree = t
  deg_ev : ev.degree < (t + rho : Nat)
  capacity : 2 * t + rho ≤ nsym

theorem WithinCapacity.loc_ne_zero {syn g loc ev : K[X]} {rho t nsym : Nat}
    (h : WithinCapacity syn g loc ev rho t nsym) : loc ≠ 0 := by
  rintro rfl
  exact zero_ne_one h.coeff_zero

end

/-! The two solvers. -/

section
variable {c : Config} (hc : primitive c = true) {K : Type} [Field K] (f : FieldView (builtTables c) K)
  {syn e : Poly} {loc ev : K[X]} {t nsym : Nat}
  (hcap : WithinCapacity (f.poly syn) (f.poly (erasLoc (builtTables c) e)) loc ev e.length t nsym)
include hc hcap

/-- The Euclidean cofactor is the locator up to a constant: it is a multiple, and the multiplier divides both cofactors,
whose determinant is 1. -/
theorem exists_euclidCofactor_eq : ∃ k, k ≠ 0 ∧ f.poly (euclidCofactor (builtTables c) syn e nsym) = loc * C k := by
  have hloc := hcap.loc_ne_zero
  obtain ⟨hkey, hcop, -, hdeg, hdeg_ev, hle⟩ := hcap
  obtain ⟨x, hx, hinv, hrb, hra⟩ := euclidCofactor_spec hc f syn e (nsym := nsym) (by omega)
  have hbezout := hinv.bezout_rb
  have hvb := hinv.deg_vb_ra
  have hxi := X_pow_dvd_sub_evaluator f syn (erasLoc (builtTables c) e) nsym
  generalize f.poly (evaluator (builtTables c) syn (erasLoc (builtTables c) e) nsym) = xi at *
  have hkey' : X ^ nsym ∣ loc * xi - ev := by
    rw [show loc * xi - ev = (loc * (f.poly (erasLoc (builtTables c) e) * f.poly syn) - ev) -
      loc * (f.poly (erasLoc (builtTables c) e) * f.poly syn - xi) by ring]
    exact dvd_sub hkey (hxi.mul_left _)
  have hsol : X ^ nsym ∣ f.poly x.vb * xi - f.poly x.rb := ⟨-f.poly x.ub, by linear_combination hbezout⟩
  have hprop := mul_eq_mul_of_keyEquation hkey' hsol
    (degree_mul_lt (m := t) hdeg.le (f.degree_poly_lt.2 hrb) (by omega))
    (degree_mul_lt (m := nsym - (nsym + e.length) / 2) (by omega) hdeg_ev (by omega))
  obtain ⟨w, hw⟩ := hcop.dvd_of_dvd_mul_right (hprop ▸ dvd_mul_right loc _)
  have hr : f.poly x.rb = w * ev := mul_left_cancel₀ hloc (by rw [hprop, hw]; ring)
  obtain ⟨z, hz⟩ := hkey'
  have hub : f.poly x.ub = -(w * z) := by
    refine mul_right_cancel₀ (pow_ne_zero nsym X_ne_zero) ?_
    linear_combination hbezout - xi * hw + hr - w * hz
  have hunit : IsUnit w := isUnit_of_dvd_one ⟨f.poly x.ua * loc - z * f.poly x.va, by
    linear_combination -hinv.det + f.poly x.ua * hw + f.poly x.va * hub⟩
  obtain ⟨k, hk, rfl⟩ := isUnit_iff.1 hunit
  exact ⟨k, hk.ne_zero, by rw [← hx, hw]⟩

theorem euclidLocator_eq_of_withinCapacity {l : Poly} (hl : Trimmed l)
    (hpoly : f.poly l = loc * f.poly (erasLoc (builtTables c) e)) :
    euclidLocator (builtTables c) syn e nsym = .ok l := by
  obtain ⟨k, hk, hv⟩ := exists_euclidCofactor_eq hc f hcap
  have hv0 : f.el (coef (euclidCofactor (builtTables c) syn e nsym) 0) = k := by
    rw [← f.coeff_poly, hv, coeff_mul_C, hcap.coeff_zero, one_mul]
  have hne : coef (euclidCofactor (builtTables c) syn e nsym) 0 ≠ 0 := by
    rw [← f.el_eq_zero.ne, hv0]
    exact hk
  rw [euclidLocator_of_ne_zero hne, f.poly_injOn_trimmed (trimmed_normalLocator _ _ _) hl]
  rw [f.poly_normalLocator, f.el_gfInv hc hne, hv0, hv, hpoly, mul_comm loc (C k), mul_assoc, ← mul_assoc, ← C_mul,
    inv_mul_cancel₀ hk, C_1, one_mul]

section
variable {k : Nat} {x : Shift} (hk : k ≤ nsym)
  (hx : ShiftInvariant f (f.poly syn) (f.poly (erasLoc (builtTables c) e)) e.length k x) (hl : x.l + t ≤ k)
include hk hx hl

/-- A step whose length leaves room for the locator has a solution of the same key equation. -/
theorem ShiftInvariant.exists_proportional : ∃ w r : K[X], f.poly x.c = f.poly (erasLoc (builtTables c) e) * w ∧
    w.natDegree + e.length ≤ x.l ∧ r.degree < x.l ∧ X ^ k ∣ f.poly x.c * f.poly syn - r ∧ loc * r = w * ev := by
  obtain ⟨w, hw⟩ := hx.dvd_c
  obtain ⟨r, hr, hdvd⟩ := exists_remainder hx.solves
  have hne : f.poly (erasLoc (builtTables c) e) * w ≠ 0 := by
    rw [← hw]
    intro h0
    simpa [h0] using hx.coeff_zero
  have hdeg := hx.deg_c
  rw [hw, natDegree_mul (left_ne_zero_of_mul hne) (right_ne_zero_of_mul hne), natDegree_poly_erasLoc hc f] at hdeg
  refine ⟨w, r, hw, by omega, hr, hdvd, mul_eq_mul_of_keyEquation
    (syn := f.poly (erasLoc (builtTables c) e) * f.poly syn)
    ((pow_dvd_pow X hk).trans hcap.key) ?_ (degree_mul_lt hcap.deg_loc.le hr (by omega))
    (degree_mul_lt (m := x.l - e.length) (by omega) hcap.deg_ev (by omega))⟩
  rwa [← mul_assoc, mul_comm w, ← hw]

/-- So the recurrence holds at the next index as well: there is no discrepancy before the length is reached. -/
theorem ShiftInvariant.discrepancy_eq_zero (hlt : k < nsym) : discrepancy (builtTables c) x.c syn k = 0 := by
  obtain ⟨w, r, hw, -, hr, -, hprop⟩ := hx.exists_proportional hc f hcap hk hl
  have hdvd : X ^ (k + 1) ∣ f.poly x.c * f.poly syn - r := by
    refine (isCoprime_X_pow hcap.coeff_zero (k + 1)).dvd_of_dvd_mul_left ?_
    have hkey := ((pow_dvd_pow X hlt).trans hcap.key).mul_left w
    rwa [mul_sub, ← hprop, mul_left_comm w, ← mul_assoc w, mul_comm w, ← hw, ← mul_sub] at hkey
  have hcoeff := X_pow_dvd_iff.1 hdvd k (Nat.lt_succ_self k)
  rw [coeff_sub, (degree_lt_iff_coeff_zero r x.l).1 hr k (by omega), sub_zero, ← f.el_discrepancy] at hcoeff
  exact f.el_eq_zero.1 hcoeff

end

/-- The length never exceeds the degree of the locator. -/
theorem exists_bmLocator_eq : ∃ x, f.poly (bmLocator (builtTables c) syn e nsym) = f.poly x.c ∧
    ShiftInvariant f (f.poly syn) (f.poly (erasLoc (builtTables c) e)) e.length nsym x ∧ x.l ≤ t + e.length := by
  have hle := hcap.capacity
  have hrun := shiftRun_induction (n := nsym - e.length)
    (P := fun k x => ShiftInvariant f (f.poly syn) (f.poly (erasLoc (builtTables c) e)) e.length k x ∧
      x.l ≤ t + e.length)
    ⟨shiftInvariant_start f (f.poly syn) (coef_zero_erasLoc hc e) (natDegree_poly_erasLoc hc f e).le,
      Nat.le_add_left _ _⟩
    fun k x _ hlt ⟨hx, hl⟩ => ⟨hx.step hc f, ?_⟩
  · rw [Nat.add_sub_cancel' (by omega)] at hrun
    exact ⟨_, f.poly_trim _, hrun⟩
  · obtain heq | ⟨hne, heq⟩ := shiftStep_length (builtTables c) syn e.length x k
    · exact heq.trans_le hl
    · have hroom : ¬ x.l + t ≤ k := fun hroom =>
        hne (hx.discrepancy_eq_zero hc f hcap (by omega) hroom (by omega))
      omega

/-- The locator of the recurrence is the erasure locator times a multiple of `loc` that is not longer and has the same
constant term. -/
theorem bmLocator_eq_of_withinCapacity {l : Poly} (hl : Trimmed l)
    (hpoly : f.poly l = loc * f.poly (erasLoc (builtTables c) e)) :
    bmLocator (builtTables c) syn e nsym = l := by
  have hle := hcap.capacity
  obtain ⟨x, hx, hinv, hlen⟩ := exists_bmLocator_eq hc f hcap
  obtain ⟨w, r, hw, hdeg, -, -, hprop⟩ := hinv.exists_proportional hc f hcap le_rfl (by omega)
  obtain ⟨z, rfl⟩ := hcap.coprime.dvd_of_dvd_mul_right (hprop ▸ dvd_mul_right loc r)
  have hone := hinv.coeff_zero
  rw [hw, mul_coeff_zero, mul_coeff_zero, hcap.coeff_zero, f.coeff_poly, coef_zero_erasLoc hc, f.el_one, one_mul,
    one_mul] at hone
  have hz : z ≠ 0 := by
    rintro rfl
    exact zero_ne_one hone
  rw [natDegree_mul hcap.loc_ne_zero hz, hcap.deg_loc] at hdeg
  refine f.poly_injOn_trimmed (trimmed_trim _) hl ?_
  rw [hx, hw, hpoly, eq_C_of_natDegree_eq_zero (p := z) (by omega), hone, C_1, mul_one, mul_comm]

end

/-! The syndrome of a codeword with noise. -/

theorem locatorOf_toNat (t : Tables) (e : Poly) : locatorOf t (e.map BitVec.toNat) = erasLoc t e := by
  simp [locatorOf, Function.comp_def]

section
variable {c : Config} (hc : primitive c = true) {K : Type} [Field K] (f : FieldView (builtTables c) K)

/-- What locates position `p` (rule R180). -/
def FieldView.place {t : Tables} (f : FieldView t K) (p : Nat) : K := f.el (t.alpha p)

include hc

theorem FieldView.place_ne_zero (p : Nat) : f.place p ≠ 0 := f.el_eq_zero.not.2 (alpha_built_ne_zero hc p)

theorem FieldView.place_eq_pow (p : Nat) : f.place p = f.place 1 ^ p := by
  induction p with
  | zero => rw [pow_zero, ← f.el_one, ← alpha_built_zero c]; rfl
  | succ p ih => rw [pow_succ, ← ih, place, place, place, ← f.el_gfMul, gfMul_built_alpha hc, Nat.cast_succ,
      Nat.cast_one]

theorem FieldView.place_injOn {s : Finset Nat} (hs : ∀ p ∈ s, p ≤ 254) : Set.InjOn f.place s := by
  intro p hp q hq h
  have halpha := f.el.injective h
  rw [alpha_natCast, alpha_natCast, expAt_built_eq_iterate hc, expAt_built_eq_iterate hc] at halpha
  exact iterate_xtime_one_inj hc (Nat.lt_succ_of_le (hs p hp)) (Nat.lt_succ_of_le (hs q hq)) halpha

omit hc in
/-- The locator of distinct positions is the product over their set. -/
theorem poly_locatorOf {l : List Nat} (hnodup : l.Nodup) (hl : ∀ p ∈ l, p ≤ 254) :
    f.poly (locatorOf (builtTables c) l) = locatorProd f.place l.toFinset := by
  have htwo := f.charP_two
  rw [locatorProd, List.prod_toFinset _ hnodup]
  clear hnodup
  induction l using List.reverseRecOn with
  | nil => exact f.poly_one
  | append_singleton l p ih =>
    have hp : (BitVec.ofNat 8 p).toNat = p := by
      have hle := hl p (List.mem_append_right l (List.mem_singleton_self p))
      rw [BitVec.toNat_ofNat]
      omega
    rw [locatorOf, List.map_append, List.map_singleton, erasLoc_append, f.poly_polyMul, f.poly_linear, hp,
      List.map_append, List.prod_append, List.map_singleton, List.prod_singleton, CharTwo.sub_eq_add,
      ← ih fun q hq => hl q (List.mem_append_left _ hq)]
    rfl

/-- The syndrome is the sum of the noise's terms, since the codeword's syndromes are 0. -/
theorem poly_syndrome {word noise : Poly} {nsym : Nat} (hword : Codeword (builtTables c) word nsym) {s : Finset Nat}
    (hnoise : ∀ p, p ∉ s → coef noise p = 0) :
    f.poly (syndrome (builtTables c) (polyAdd word noise) nsym) =
      seriesSum f.place (fun p => f.el (coef noise p)) s nsym := by
  ext i
  rw [coeff_seriesSum, f.coeff_poly]
  split_ifs with hi
  · have hsupport : (f.poly noise).support ⊆ s := fun p hp => by
      by_contra hnot
      rw [mem_support_iff, f.coeff_poly, hnoise p hnot, f.el_zero] at hp
      exact hp rfl
    rw [coef_syndrome _ _ hi, polyEval_built_polyAdd hc, hword i hi, zero_xor_byte, f.el_polyEval, eval_eq_sum,
      sum_def, Finset.sum_subset hsupport fun p _ hp => by rw [notMem_support_iff.1 hp, zero_mul]]
    refine Finset.sum_congr rfl fun p _ => ?_
    rw [f.coeff_poly, ← FieldView.place, f.place_eq_pow hc i, f.place_eq_pow hc p, pow_right_comm]
  · rw [coef_of_ge (by rw [length_syndrome]; omega), f.el_zero]

/-- The positions outside the erasures give a locator within capacity, the erasures' noise being any. -/
theorem withinCapacity_of_noise {word noise e : Poly} {err : List Nat} {nsym : Nat}
    (hword : Codeword (builtTables c) word nsym) (hnodup : (e.map BitVec.toNat ++ err).Nodup)
    (hpos : ∀ p ∈ e.map BitVec.toNat ++ err, p ≤ 254) (hcap : 2 * err.length + e.length ≤ nsym)
    (herr : ∀ p ∈ err, coef noise p ≠ 0) (hnoise : ∀ p, p ∉ e.map BitVec.toNat ++ err → coef noise p = 0) :
    ∃ loc ev, WithinCapacity (f.poly (syndrome (builtTables c) (polyAdd word noise) nsym))
        (f.poly (erasLoc (builtTables c) e)) loc ev e.length err.length nsym ∧
      f.poly (locatorOf (builtTables c) (e.map BitVec.toNat ++ err)) = loc * f.poly (erasLoc (builtTables c) e) := by
  obtain ⟨hnodup_e, hnodup_err, hdisj⟩ := List.nodup_append'.1 hnodup
  have hgamma := poly_locatorOf f hnodup_e fun p hp => hpos p (List.mem_append_left err hp)
  have hall := poly_locatorOf f hnodup hpos
  have hsyn := poly_syndrome hc f hword (s := (e.map BitVec.toNat ++ err).toFinset) (noise := noise)
    fun p hp => hnoise p (mt List.mem_toFinset.2 hp)
  have hcard : (e.map BitVec.toNat ++ err).toFinset.card = err.length + e.length := by
    rw [List.toFinset_card_of_nodup hnodup, List.length_append, List.length_map, Nat.add_comm]
  have hprod : locatorProd f.place (e.map BitVec.toNat ++ err).toFinset =
      locatorProd f.place err.toFinset * f.poly (erasLoc (builtTables c) e) := by
    rw [← locatorOf_toNat, hgamma, List.toFinset_append, locatorProd,
      Finset.prod_union (List.disjoint_toFinset_iff_disjoint.2 hdisj), mul_comm]
    rfl
  have hplace := f.place_ne_zero hc
  have hinj := f.place_injOn hc (s := (e.map BitVec.toNat ++ err).toFinset) fun p hp => hpos p (List.mem_toFinset.1 hp)
  refine ⟨locatorProd f.place err.toFinset,
    evaluatorSum f.place (fun p => f.el (coef noise p)) (e.map BitVec.toNat ++ err).toFinset,
    ⟨?_, ?_, coeff_zero_locatorProd _ _, ?_, ?_, hcap⟩, hall.trans hprod⟩
  · rw [← mul_assoc, ← hprod, hsyn]
    exact X_pow_dvd_keyEquation _ _ _ _
  · refine isCoprime_locatorProd_evaluatorSum hplace hinj (fun p hp => ?_)
      fun p hp => f.el_eq_zero.not.2 (herr p (List.mem_toFinset.1 hp))
    exact List.mem_toFinset.2 (List.mem_append_right _ (List.mem_toFinset.1 hp))
  · rw [natDegree_locatorProd hplace, List.toFinset_card_of_nodup hnodup_err]
  · rw [← hcard]
    exact degree_evaluatorSum_lt hplace

end

end Sys2Proof.Machine
end

section
/-! The statements of 44_locator.md. -/

open Sys2Proof Sys2Proof.Machine

/-- Settles O28: the loop ends with the remainder 0, so that by Cramer's rule the other remainder divides both operands,
and the degrees of the cofactors are bounded by those of the operands. -/
theorem xgcdGivesBezout : Obligations.XgcdGivesBezout := by
  rintro s u v r a b ⟨hc, htab⟩
  obtain ⟨K, _, ⟨f⟩⟩ := exists_fieldView hc
  have hx := euclidInvariant_euclidRun hc f (s.getP a) (s.getP b) (le_refl (-1)) (le_max_left _ _) (le_max_right _ _)
  have hrb := f.poly_eq_zero.2
    ((deg_rb_euclidRun_le hc (s.getP a) (s.getP b) (le_refl (-1))).trans_lt neg_one_lt_zero)
  obtain ⟨⟨hra, -⟩, ⟨hua, -⟩, hva, -⟩ := trimmed_euclidRun (builtTables s.cfg) (s.getP a) (s.getP b) (-1)
  obtain ⟨ha, hb⟩ := hx.operands_eq
  rw [hrb, mul_zero, add_zero] at ha hb
  have hexec := exec_xgcd s u v r a b
  rw [htab] at hexec ⊢
  refine ⟨fun huv hur hvr => decodeOfEncode (.xgcd u v r a b) (decide_eq_true ⟨huv, hur, hvr⟩), _, _, _,
    hexec, f.poly_eq_iff.1 ?_, f.poly_dvd_poly.1 (Dvd.intro_left _ ha.symm),
    f.poly_dvd_poly.1 (Dvd.intro_left _ hb.symm), fun hla hlb => ?_⟩
  · rw [f.poly_polyAdd, f.poly_polyMul, f.poly_polyMul, hx.bezout_ra]
  · have hda := f.natDegree_poly_le_of_length (n := 255) hla
    have hdb := f.natDegree_poly_le_of_length (n := 255) hlb
    have hu := hx.deg_ua_rb
    have hv := hx.deg_va_rb
    have hr := hx.deg_vb_ra
    exact ⟨f.length_le_of_natDegree hua (n := 255) (by omega), f.length_le_of_natDegree hva (n := 255) (by omega),
      f.length_le_of_natDegree hra (n := 255) (by omega)⟩

/-- Settles O29: the sequences are the working values after each iteration; the loop stops at the first remainder within
the bound, since the degrees fall. -/
theorem sugiStopsAtBound : Obligations.SugiStopsAtBound := by
  rintro s u v r a b c ⟨hc, htab⟩
  obtain ⟨K, _, ⟨f⟩⟩ := exists_fieldView hc
  rw [htab]
  refine ⟨fun huv hur hvr => decodeOfEncode (.sugi u v r a b c) (decide_eq_true ⟨huv, hur, hvr⟩), fun hup => ?_,
    fun hlow => ?_⟩
  · have hx := euclidInvariant_euclidRun hc f (s.getP a) (s.getP b) hup (le_max_left _ _) (le_max_right _ _)
    have hexec := exec_sugi_of_bound u v r a b hup
    rw [htab] at hexec
    refine ⟨_, _, _, hexec, deg_rb_euclidRun_le hc _ _ hup, ?_, f.poly_eq_iff.1 ?_,
      fun hle => ?_⟩
    · obtain ⟨n, hn, habove⟩ := exists_euclidRun_eq_euclidAt (builtTables s.cfg) (s.getP a) (s.getP b) (s.getR c).toInt
      refine ⟨n, euclidQuotient (builtTables s.cfg) (s.getP a) (s.getP b),
        fun k => (euclidAt (builtTables s.cfg) (s.getP a) (s.getP b) k).ra,
        fun k => (euclidAt (builtTables s.cfg) (s.getP a) (s.getP b) k).ua,
        fun k => (euclidAt (builtTables s.cfg) (s.getP a) (s.getP b) k).va, rfl, rfl, rfl, rfl, rfl, rfl,
        fun k hk => ?_, ?_⟩
      · refine ⟨?_, euclidAt_recurrence hc _ _ (hup.trans_lt (habove k hk))⟩
        beta_reduce
        rw [euclidAt_succ]
        exact habove k hk
      · beta_reduce
        rw [euclidAt_succ, hn]
        exact ⟨rfl, rfl, rfl⟩
    · rw [f.poly_polyAdd, f.poly_polyMul, f.poly_polyMul, hx.bezout_rb]
    · rw [euclidRun_of_le _ hle]
      exact ⟨rfl, rfl, rfl⟩
  · rw [exec, execSugi, State.sint, decide_eq_false (by omega)]
    rfl

/-- Settles O30: the cofactor has degree at most NSYM less the bound, and so the product with the erasure locator
fits. -/
theorem elocSolvesOrReports : Obligations.ElocSolvesOrReports := by
  rintro s d x e validate g v ⟨hc, htab⟩ rfl hv
  replace hv : v = euclidCofactor s.tables (firstCoefs (s.getP x) s.nsym.toNat) (s.getP e) s.nsym.toNat := hv
  refine ⟨decodeOfEncode (.eloc d x e validate) rfl,
    fun hout => exec_eloc_of_refused d x validate (erasureOperand_of_outOfRange hout), fun hlen hpos =>
    ⟨fun hcap => exec_eloc_of_refused d x validate (erasureOperand_of_tooMany hlen hpos hcap), fun hcap hzero => ?_,
      fun hcap hne => ?_⟩⟩
  · exact exec_eloc_of_zero d x validate hlen hpos hcap (hv ▸ hzero)
  · rw [exec_eloc_of_ne_zero d x validate hlen hpos hcap (hv ▸ hne), ← hv]
    refine ⟨_, scanRoots s.tables _, ?_, ?_, trimmed_normalLocator _ _ _, coef_normalLocator _ _ _, nodup_scanRoots _ _,
      fun _ => mem_scanRoots, endLocator_of_pass d, endLocator_of_degree d, endLocator_of_roots d⟩
    · rw [htab]
      exact coef_zero_normalLocator hc hne (coef_zero_erasLoc hc _)
    · rw [hv, htab]
      exact deg_normalLocator_le hc _ _ hcap

/-- Settles O31: every step keeps the constant term, the bound on the degree and the factor. -/
theorem bmlocSolvesOrReports : Obligations.BmlocSolvesOrReports := by
  rintro s d x e validate ⟨hc, htab⟩
  obtain ⟨K, _, ⟨f⟩⟩ := exists_fieldView hc
  refine ⟨decodeOfEncode (.bmloc d x e validate) rfl,
    fun hout => exec_bmloc_of_refused d x validate (erasureOperand_of_outOfRange hout), fun hlen hpos =>
    ⟨fun hcap => exec_bmloc_of_refused d x validate (erasureOperand_of_tooMany hlen hpos hcap), fun hcap => ?_⟩⟩
  rw [exec_bmloc_of_inRange d x validate hlen hpos hcap]
  obtain ⟨y, hy, hinv⟩ := bmLocator_spec hc f (firstCoefs (s.getP x) s.nsym.toNat) (s.getP e) hcap
  refine ⟨_, scanRoots s.tables _, rfl, ?_, ?_, trimmed_trim _, ?_, nodup_scanRoots _ _, fun _ => mem_scanRoots,
    endLocator_of_pass d, endLocator_of_degree d, endLocator_of_roots d⟩ <;> rw [htab]
  · rw [← f.el.apply_eq_iff_eq, ← f.coeff_poly, hy, hinv.coeff_zero, f.el_one]
  · rw [← f.natDegree_poly_le, hy]
    exact hinv.deg_c.trans hinv.le_index
  · rw [← f.poly_dvd_poly, hy]
    exact hinv.dvd_c

/-- Settles O32: the bounded loop does not run, and no discrepancy differs from 0. -/
theorem zeroSyndromeGivesErasureLocator : Obligations.ZeroSyndromeGivesErasureLocator := by
  rintro s d x e ⟨hc, htab⟩ hcap hpos hsyn
  have hlen : (s.getP e).length ≤ 255 := hcap.trans (Nat.le_of_lt_succ s.nsym.isLt)
  have hzero (k : Nat) : coef (firstCoefs (s.getP x) s.nsym.toNat) k = 0 := by
    rw [coef_firstCoefs]
    split_ifs with hk
    · exact hsyn k hk
    · rfl
  have hv := euclidCofactor_of_zero s.tables hzero (s.getP e) s.nsym.toNat
  have htrim := trimmed_erasLoc hc (s.getP e)
  constructor
  · rw [exec_eloc_of_ne_zero d x false hlen hpos hcap (by rw [hv]; decide), hv, endLocator_of_pass d (.inl rfl), htab,
      normalLocator_one hc htrim]
  · rw [exec_bmloc_of_inRange d x false hlen hpos hcap, bmLocator_of_zero _ hzero, endLocator_of_pass d (.inl rfl),
      htab, trim_of_trimmed htrim]

/-- Settles O33: both solvers solve the key equation of the syndrome, whose solution is unique within capacity. -/
theorem solversAgreeWithinCapacity : Obligations.SolversAgreeWithinCapacity := by
  intro c word noise e err nsym hc _ hword hnodup hpos hcap herr hnoise
  obtain ⟨K, _, ⟨f⟩⟩ := exists_fieldView hc
  obtain ⟨loc, ev, hwithin, hpoly⟩ := withinCapacity_of_noise hc f hword hnodup hpos hcap herr hnoise
  have htrim := trimmed_erasLoc hc ((e.map BitVec.toNat ++ err).map (BitVec.ofNat 8))
  exact ⟨euclidLocator_eq_of_withinCapacity hc f hwithin htrim hpoly,
    bmLocator_eq_of_withinCapacity hc f hwithin htrim hpoly⟩

end

section
/-! SUPPORT. The root finder (45_roots.md rules R191 to R194): the order of the scan, both results of the root-count
gate, and when GETPOS meets the root 0. -/

namespace Sys2Proof.Machine

theorem pairwise_lt_fieldElements : fieldElements.Pairwise fun x y => x.toNat < y.toNat := by
  refine List.pairwise_map.2 (List.pairwise_lt_range.imp_of_mem fun hi hj hlt => ?_)
  rw [List.mem_range] at hi hj
  rwa [BitVec.toNat_ofNat, BitVec.toNat_ofNat, Nat.mod_eq_of_lt hi, Nat.mod_eq_of_lt hj]

theorem pairwise_lt_scanRoots (t : Tables) (p : Poly) : (scanRoots t p).Pairwise fun x y => x.toNat < y.toNat :=
  pairwise_lt_fieldElements.filter _

/-- The value at 0 is the constant term, whatever the tables hold (42_polynomial.md rule R149). -/
theorem polyEval_zero (t : Tables) (p : Poly) : polyEval t p 0 = coef p 0 := by
  cases p with
  | nil => exact (coef_nil 0).symm
  | cons a p => rw [polyEval_cons, gfMul_zero, coef_cons_zero]; exact zero_xor_byte a

theorem scanRoots_contains_zero (t : Tables) (p : Poly) : (scanRoots t p).contains 0 = decide (coef p 0 = 0) := by
  rw [List.contains_eq_mem, decide_eq_decide, mem_scanRoots, polyEval_zero]

theorem findRoots_of_count {t : Tables} {p : Poly} (h : ((scanRoots t p).length : Int) = deg p) :
    findRoots t p = (scanRoots t p, true) := if_pos h

theorem findRoots_of_miscount {t : Tables} {p : Poly} (h : ((scanRoots t p).length : Int) ≠ deg p) :
    findRoots t p = ([], false) := if_neg h

theorem exec_froots (s : State) (d a : PIx) : exec (.froots d a) s =
    .next ((s.setP d (findRoots s.tables (s.getP a)).1).setRm (findRoots s.tables (s.getP a)).2).complete := rfl

section
variable {s : State} (d : PIx) {a : PIx}

/-- GETPOS on a root list without 0 (rule R194). -/
theorem exec_getpos_of_ne_zero (h : (findRoots s.tables (s.getP a)).1.contains 0 = false) : exec (.getpos d a) s =
    .next ((s.setP d (positionsOf s.tables (findRoots s.tables (s.getP a)).1)).setRm
      (findRoots s.tables (s.getP a)).2).complete := by
  simp only [exec, execGetpos, h, Bool.not_false, require_true, bind_ok, pure_eq_ok, State.perform_ok]

/-- GETPOS on a root list with 0 (rule R194). -/
theorem exec_getpos_of_zero (h : (findRoots s.tables (s.getP a)).1.contains 0 = true) :
    exec (.getpos d a) s = .next (s.raise .cmdDomain) := by
  simp only [exec, execGetpos, h, Bool.not_true, require_false, bind_error, State.perform_error]

end

end Sys2Proof.Machine
end

section
/-! The statements of 45_roots.md. -/

open Sys2Proof Sys2Proof.Machine

/-- Settles O34: the roots are those of the scan, which meets 0 exactly when the constant term is 0, and the empty list
has no root 0. -/
theorem rootsAndPositions : Obligations.RootsAndPositions := by
  intro s d a
  refine ⟨decodeOfEncode (.froots d a) rfl, decodeOfEncode (.getpos d a) rfl, scanRoots s.tables (s.getP a),
    pairwise_lt_scanRoots _ _, fun _ => mem_scanRoots, fun hcount => ?_, fun hmiscount => ?_⟩
  · have hfound := findRoots_of_count hcount
    have hzero : (findRoots s.tables (s.getP a)).1.contains 0 = decide (coef (s.getP a) 0 = 0) := by
      rw [hfound, scanRoots_contains_zero]
    refine ⟨?_, fun hne => ?_, fun heq => exec_getpos_of_zero d (hzero.trans (decide_eq_true heq))⟩
    · rw [exec_froots, hfound]
    · rw [exec_getpos_of_ne_zero d (hzero.trans (decide_eq_false hne)), hfound]
      rfl
  · have hfound := findRoots_of_miscount hmiscount
    constructor
    · rw [exec_froots, hfound]
    · rw [exec_getpos_of_ne_zero d (by rw [hfound]; rfl), hfound]
      rfl

end

section
/-! SUPPORT. The unit of 46_forney.md: the lanes the correction step leaves, Forney's magnitudes position by position,
and their values for the erasure locator, where the denominator at a listed position is the derivative's one product
without a zero factor and the magnitude is the noise there. -/

namespace Sys2Proof.Machine
open Polynomial

/-! The correction step (rule R205). -/

theorem coef_set {r : Poly} {k : Nat} (hk : k < r.length) (v : Byte) (i : Nat) :
    coef (r.set k v) i = if k = i then v else coef r i := by
  simp only [coef, List.getD_eq_getElem?_getD, List.getElem?_set, hk, if_true]
  split_ifs <;> rfl

theorem applyMags_cons (r : Poly) (p : Byte) (pos : Poly) (v : Byte) (mags : Poly) :
    applyMags r (p :: pos) (v :: mags) = applyMags (r.set p.toNat (gfAdd (coef r p.toNat) v)) pos mags := rfl

theorem length_applyMags (r pos mags : Poly) : (applyMags r pos mags).length = r.length := by
  induction pos generalizing r mags with
  | nil => rfl
  | cons p pos ih =>
    cases mags with
    | nil => rfl
    | cons v mags => rw [applyMags_cons, ih, List.length_set]

/-- Each entry adds its magnitude to the lane of its position. -/
theorem coef_applyMags {r pos mags : Poly} (hlen : pos.length = mags.length) (hpos : ∀ p ∈ pos, p.toNat < r.length)
    (i : Nat) : coef (applyMags r pos mags) i =
      coef r i ^^^ xorSum pos.length fun j => if (coef pos j).toNat = i then coef mags j else 0 := by
  induction pos generalizing r mags with
  | nil => exact (xor_zero_byte _).symm
  | cons p pos ih =>
    obtain ⟨v, mags, rfl⟩ := List.exists_cons_of_length_eq_add_one hlen.symm
    obtain ⟨hp, hrest⟩ := List.forall_mem_cons.1 hpos
    have hlane : coef (r.set p.toNat (gfAdd (coef r p.toNat) v)) i = coef r i ^^^ if p.toNat = i then v else 0 := by
      rw [coef_set hp]
      split_ifs with hi
      · rw [hi, gfAdd]
      · rw [xor_zero_byte]
    rw [applyMags_cons, ih (Nat.succ.inj hlen) (by simpa only [List.length_set] using hrest), hlane, List.length_cons,
      xorSum_succ_left, BitVec.xor_assoc]
    rfl

theorem coef_mem {p : Poly} {j : Nat} (h : j < p.length) : coef p j ∈ p := by
  rw [coef_of_lt h]
  exact List.getElem_mem h

theorem coef_applyMags_of_unlisted {r pos mags : Poly} (hlen : pos.length = mags.length)
    (hpos : ∀ p ∈ pos, p.toNat < r.length) {i : Nat} (hi : ∀ p ∈ pos, p.toNat ≠ i) :
    coef (applyMags r pos mags) i = coef r i := by
  rw [coef_applyMags hlen hpos, xorSum_congr fun j hj => if_neg (hi _ (coef_mem hj)), xorSum_zero, xor_zero_byte]

/-- Of distinct positions only one entry adds to a listed lane. -/
theorem coef_applyMags_of_listed {r pos : Poly} (g : Byte → Byte) (hnodup : pos.Nodup)
    (hpos : ∀ p ∈ pos, p.toNat < r.length) {p : Byte} (hp : p ∈ pos) :
    coef (applyMags r pos (pos.map g)) p.toNat = coef r p.toNat ^^^ g p := by
  obtain ⟨k, hk, rfl⟩ := List.mem_iff_getElem.1 hp
  have hterm : ∀ j < pos.length, (if (coef pos j).toNat = pos[k].toNat then coef (pos.map g) j else 0) =
      if j = k then g pos[k] else 0 := fun j hj => by
    have hsame : (coef pos j).toNat = pos[k].toNat ↔ j = k := by
      rw [coef_of_lt hj, BitVec.toNat_inj, hnodup.getElem_inj_iff]
    simp only [hsame]
    split_ifs with hjk
    · subst hjk
      rw [coef_of_lt (by rwa [List.length_map]), List.getElem_map]
    · rfl
  rw [coef_applyMags (List.length_map g).symm hpos, xorSum_congr hterm, xorSum_ite_eq, if_pos hk]

/-! The magnitudes (rule R201). -/

/-- The denominator at a position: the derivative of the locator at alpha(-p). -/
def forneyDen (t : Tables) (loc : Poly) (p : Byte) : Byte :=
  polyEval t (polyDeriv loc) (t.alpha (-(p.toNat : Int)))

/-- The magnitude at a position whose denominator is not 0. -/
def forneyMag (t : Tables) (loc o : Poly) (p : Byte) : Byte :=
  gfMul t (gfMul t (t.alpha p.toNat) (polyEval t o (t.alpha (-(p.toNat : Int))))) (gfInv t (forneyDen t loc p))

theorem forney_cons (t : Tables) (loc o : Poly) (p : Byte) (pos : Poly) :
    forney t loc o (p :: pos) = (do
      require (forneyDen t loc p ≠ 0) .cfgForneyDen
      let rest ← forney t loc o pos
      pure (forneyMag t loc o p :: rest)) := rfl

theorem forney_of_ne_zero {t : Tables} {loc pos : Poly} (o : Poly) (h : ∀ p ∈ pos, forneyDen t loc p ≠ 0) :
    forney t loc o pos = .ok (pos.map (forneyMag t loc o)) := by
  induction pos with
  | nil => rfl
  | cons p pos ih =>
    obtain ⟨hp, hrest⟩ := List.forall_mem_cons.1 h
    rw [forney_cons, decide_eq_true hp, ih hrest]
    rfl

theorem forney_of_zero {t : Tables} {loc pos : Poly} (o : Poly) {q : Byte} (hq : q ∈ pos)
    (hzero : forneyDen t loc q = 0) : forney t loc o pos = .error .cfgForneyDen := by
  induction pos with
  | nil => exact absurd hq List.not_mem_nil
  | cons p pos ih =>
    rw [forney_cons]
    by_cases hp : forneyDen t loc p = 0
    · rw [decide_eq_false (not_not.2 hp)]
      rfl
    · have hrest : q ∈ pos := List.mem_of_ne_of_mem (by rintro rfl; exact hp hzero) hq
      rw [decide_eq_true hp, ih hrest]
      rfl

/-! The locator's product at the root of one factor, over any field. -/

section
variable {K : Type} [Field K] {a y : Nat → K} {s : Finset Nat} (ha : ∀ p, a p ≠ 0) {p : Nat} (hp : p ∈ s)
include ha hp

theorem eval_locatorProd_erase_ne_zero (hinj : Set.InjOn a s) : (locatorProd a (s.erase p)).eval (a p)⁻¹ ≠ 0 := by
  rw [locatorProd, eval_prod]
  refine Finset.prod_ne_zero_iff.2 fun q hq h0 => ?_
  obtain ⟨hne, hq⟩ := Finset.mem_erase.1 hq
  simp only [eval_sub, eval_one, eval_mul, eval_C, eval_X] at h0
  exact hne (hinj hq hp ((mul_inv_eq_one₀ (ha p)).1 (sub_eq_zero.1 h0).symm))

/-- The derivative keeps the one product without the factor that vanishes. -/
theorem eval_derivative_locatorProd :
    (derivative (locatorProd a s)).eval (a p)⁻¹ = -a p * (locatorProd a (s.erase p)).eval (a p)⁻¹ := by
  have hsplit : locatorProd a s = (1 - C (a p) * X) * locatorProd a (s.erase p) := (Finset.mul_prod_erase s _ hp).symm
  simp [hsplit, mul_inv_cancel₀ (ha p)]

/-- The evaluator keeps the one term of `p`. -/
theorem eval_evaluatorSum :
    (evaluatorSum a y s).eval (a p)⁻¹ = y p * (locatorProd a (s.erase p)).eval (a p)⁻¹ := by
  rw [evaluatorSum, eval_finsetSum, Finset.sum_eq_single_of_mem p hp fun q _ hqp => ?_, eval_mul, eval_C]
  rw [locatorProd, eval_mul, eval_prod, Finset.prod_eq_zero (Finset.mem_erase.2 ⟨hqp.symm, hp⟩), mul_zero]
  simp [mul_inv_cancel₀ (ha p)]

end

/-- In characteristic 2 the derivative keeps the odd powers only (42_polynomial.md rule R151). -/
theorem FieldView.poly_polyDeriv {t : Tables} {K : Type} [Field K] (f : FieldView t K) (p : Poly) :
    f.poly (polyDeriv p) = derivative (f.poly p) := by
  have := f.charP_two
  ext k
  rw [coeff_derivative, f.coeff_poly, f.coeff_poly, coef_polyDeriv, ← Nat.cast_succ, CharTwo.natCast_eq_ite]
  by_cases hk : k % 2 = 0
  · rw [if_pos hk, if_neg (by rw [Nat.even_iff]; omega), mul_one]
  · rw [if_neg hk, if_pos (by rw [Nat.even_iff]; omega), mul_zero, f.el_zero]

/-! Forney with the erasure locator of distinct positions (rules R201, R203). -/

section
variable {c : Config} (hc : primitive c = true) {K : Type} [Field K] (f : FieldView (builtTables c) K) {pos : Poly}
  (hnodup : pos.Nodup) (hpos : ∀ p ∈ pos, p.toNat ≤ 254)
include hc

theorem FieldView.el_alpha_neg (p : Nat) : f.el ((builtTables c).alpha (-(p : Int))) = (f.place p)⁻¹ := by
  refine eq_inv_of_mul_eq_one_left ?_
  rw [place, ← f.el_gfMul, gfMul_built_alpha hc, Int.add_left_neg, alpha_built_zero, f.el_one]

include hnodup hpos

omit hc in
theorem FieldView.poly_erasLoc :
    f.poly (erasLoc (builtTables c) pos) = locatorProd f.place (pos.map BitVec.toNat).toFinset := by
  rw [← locatorOf_toNat, poly_locatorOf f (hnodup.map BitVec.toNat_injective) (List.forall_mem_map.2 hpos)]

omit hnodup in
theorem FieldView.place_injOn_toFinset : Set.InjOn f.place (pos.map BitVec.toNat).toFinset := by
  refine f.place_injOn hc fun p hp => ?_
  obtain ⟨q, hq, rfl⟩ := List.mem_map.1 (List.mem_toFinset.1 hp)
  exact hpos q hq

theorem FieldView.el_forneyDen_erasLoc {p : Byte} (hp : p ∈ pos) :
    f.el (forneyDen (builtTables c) (erasLoc (builtTables c) pos) p) = -f.place p.toNat *
      (locatorProd f.place ((pos.map BitVec.toNat).toFinset.erase p.toNat)).eval (f.place p.toNat)⁻¹ := by
  rw [forneyDen, f.el_polyEval, f.poly_polyDeriv, f.poly_erasLoc hnodup hpos, f.el_alpha_neg hc,
    eval_derivative_locatorProd (f.place_ne_zero hc) (List.mem_toFinset.2 (List.mem_map_of_mem hp))]

/-- No denominator is 0 at a listed position (rule R201). -/
theorem forneyDen_erasLoc_ne_zero {p : Byte} (hp : p ∈ pos) :
    forneyDen (builtTables c) (erasLoc (builtTables c) pos) p ≠ 0 := by
  obtain ⟨K, _, ⟨f⟩⟩ := exists_fieldView hc
  have hne := eval_locatorProd_erase_ne_zero (f.place_ne_zero hc) (List.mem_toFinset.2 (List.mem_map_of_mem hp))
    (f.place_injOn_toFinset hc hpos)
  rw [← f.el_eq_zero.ne, f.el_forneyDen_erasLoc hc hnodup hpos hp]
  exact mul_ne_zero (neg_ne_zero.2 (f.place_ne_zero hc _)) hne

section
variable {word noise : Poly} {nsym : Nat} (hcap : pos.length ≤ nsym) (hword : Codeword (builtTables c) word nsym)
  (hnoise : ∀ i, (∀ p ∈ pos, p.toNat ≠ i) → coef noise i = 0)
include hcap hword hnoise

/-- The evaluator of the erasure locator is the noise's: they agree up to x^nsym, and both have a smaller degree. -/
theorem FieldView.poly_evaluator_erasLoc :
    f.poly (evaluator (builtTables c) (syndrome (builtTables c) (polyAdd word noise) nsym)
      (erasLoc (builtTables c) pos) nsym) =
    evaluatorSum f.place (fun p => f.el (coef noise p)) (pos.map BitVec.toNat).toFinset := by
  have hsyn := poly_syndrome hc f hword (s := (pos.map BitVec.toNat).toFinset) fun p hp =>
    hnoise p fun q hq hqp => hp (List.mem_toFinset.2 (List.mem_map.2 ⟨q, hq, hqp⟩))
  have hcard : (pos.map BitVec.toNat).toFinset.card ≤ nsym :=
    (List.toFinset_card_le _).trans ((List.length_map _).trans_le hcap)
  have hdeg := degree_evaluatorSum_lt (f.place_ne_zero hc) (y := fun p => f.el (coef noise p))
    (s := (pos.map BitVec.toNat).toFinset)
  ext k
  rw [coeff_poly_evaluator, hsyn, f.poly_erasLoc hnodup hpos]
  split_ifs with hk
  · have hkey := X_pow_dvd_iff.1 (X_pow_dvd_keyEquation f.place (fun p => f.el (coef noise p))
      (pos.map BitVec.toNat).toFinset nsym) k hk
    rwa [coeff_sub, sub_eq_zero, mul_comm] at hkey
  · exact ((degree_lt_iff_coeff_zero _ _).1 hdeg k (by omega)).symm

/-- Numerator and denominator share the product without the factor that vanishes, and what is left is the noise. -/
theorem forneyMag_erasLoc {p : Byte} (hp : p ∈ pos) :
    forneyMag (builtTables c) (erasLoc (builtTables c) pos)
      (evaluator (builtTables c) (syndrome (builtTables c) (polyAdd word noise) nsym)
        (erasLoc (builtTables c) pos) nsym) p = coef noise p.toNat := by
  obtain ⟨K, _, ⟨f⟩⟩ := exists_fieldView hc
  have htwo := f.charP_two
  have hmem := List.mem_toFinset.2 (List.mem_map_of_mem (f := BitVec.toNat) hp)
  have hplace := f.place_ne_zero hc p.toNat
  have hne := eval_locatorProd_erase_ne_zero (f.place_ne_zero hc) hmem (f.place_injOn_toFinset hc hpos)
  refine f.el.injective ?_
  rw [forneyMag, f.el_gfMul, f.el_gfMul, f.el_gfInv hc (forneyDen_erasLoc_ne_zero hc hnodup hpos hp),
    f.el_forneyDen_erasLoc hc hnodup hpos hp, f.el_polyEval,
    f.poly_evaluator_erasLoc hc hnodup hpos hcap hword hnoise, f.el_alpha_neg hc,
    eval_evaluatorSum (f.place_ne_zero hc) hmem, CharTwo.neg_eq, ← FieldView.place, mul_left_comm,
    mul_inv_cancel_right₀ (mul_ne_zero hplace hne)]

end

end

/-! The filler (rules R203, R204). -/

/-- The magnitudes of the filler. -/
def fillMags (t : Tables) (r pos : Poly) (nsym : Nat) : Poly :=
  pos.map (forneyMag t (erasLoc t pos) (evaluator t (syndrome t r nsym) (erasLoc t pos) nsym))

theorem length_fillMags (t : Tables) (r pos : Poly) (nsym : Nat) : pos.length = (fillMags t r pos nsym).length :=
  (List.length_map _).symm

theorem forney_erasLoc {c : Config} (hc : primitive c = true) {pos : Poly} (hnodup : pos.Nodup)
    (hpos : ∀ p ∈ pos, p.toNat ≤ 254) (r : Poly) (nsym : Nat) :
    forney (builtTables c) (erasLoc (builtTables c) pos)
      (evaluator (builtTables c) (syndrome (builtTables c) r nsym) (erasLoc (builtTables c) pos) nsym) pos =
        .ok (fillMags (builtTables c) r pos nsym) :=
  forney_of_ne_zero _ fun _ => forneyDen_erasLoc_ne_zero hc hnodup hpos

theorem syndrome_congr (t : Tables) {p q : Poly} (h : ∀ i, coef p i = coef q i) (nsym : Nat) :
    syndrome t p nsym = syndrome t q nsym := by
  have heval (x : Byte) : polyEval t p x = polyEval t q x := by
    rw [← polyEval_trim, trim_congr h, polyEval_trim]
  simp only [syndrome_eq_map, heval]

theorem allZero_syndrome (t : Tables) (r : Poly) (nsym : Nat) :
    allZero (syndrome t r nsym) = true ↔ Codeword t r nsym := by
  refine allZero_eq_true.trans ⟨fun h i hi => (coef_syndrome t r hi).symm.trans (h i), fun h i => ?_⟩
  obtain hlt | hge := Nat.lt_or_ge i nsym
  · exact (coef_syndrome t r hlt).trans (h i hlt)
  · exact coef_of_ge ((length_syndrome t r nsym).trans_le hge)

/-- The block is a codeword plus the noise at the listed positions, and the magnitudes take the noise away. -/
theorem applyMags_fillMags {c : Config} (hc : primitive c = true) {r pos word : Poly} {nsym : Nat}
    (hlen : r.length ≤ 255) (hpos : ∀ p ∈ pos, p.toNat < r.length) (hnodup : pos.Nodup)
    (hcap : pos.length ≤ nsym) (hword : Codeword (builtTables c) word nsym)
    (hagree : AgreeOutside r word (pos.map BitVec.toNat)) :
    applyMags r pos (fillMags (builtTables c) r pos nsym) = word := by
  obtain ⟨hsame, hout⟩ := hagree
  have hunlisted (i : Nat) (hi : ∀ p ∈ pos, p.toNat ≠ i) : coef r i = coef word i := hout i fun hmem => by
    obtain ⟨p, hp, hpi⟩ := List.mem_map.1 hmem
    exact hi p hp hpi
  have hnoise (i : Nat) (hi : ∀ p ∈ pos, p.toNat ≠ i) : coef (polyAdd word r) i = 0 := by
    rw [coef_polyAdd, hunlisted i hi, xor_self_byte]
  have hsum (i : Nat) : coef r i = coef (polyAdd word (polyAdd word r)) i := by
    rw [coef_polyAdd, coef_polyAdd, ← BitVec.xor_assoc, xor_self_byte, zero_xor_byte]
  have hbound (p : Byte) (hp : p ∈ pos) : p.toNat ≤ 254 := Nat.le_of_lt_succ ((hpos p hp).trans_le hlen)
  have hlane (i : Nat) : coef (applyMags r pos (fillMags (builtTables c) r pos nsym)) i = coef word i := by
    by_cases hi : ∀ p ∈ pos, p.toNat ≠ i
    · rw [coef_applyMags_of_unlisted (length_fillMags _ _ _ _) hpos hi, hunlisted i hi]
    · push Not at hi
      obtain ⟨p, hp, rfl⟩ := hi
      rw [fillMags, coef_applyMags_of_listed _ hnodup hpos hp, syndrome_congr _ hsum,
        forneyMag_erasLoc hc hnodup hbound hcap hword hnoise hp, coef_polyAdd, BitVec.xor_comm, BitVec.xor_assoc,
        xor_self_byte, xor_zero_byte]
  refine List.ext_getElem ((length_applyMags _ _ _).trans hsame) fun i hi hi' => ?_
  rw [← coef_of_lt hi, ← coef_of_lt hi', hlane]

/-- The operands of FILLER and RSDEC that pass the tests of rule R204. -/
structure BlockInRange (nsym : Nat) (r e : Poly) : Prop where
  length_pos : 1 ≤ r.length
  length_le : r.length ≤ 255
  nsym_le : nsym ≤ r.length
  inside : ∀ p ∈ e, p.toNat < r.length
  nodup : e.Nodup

/-- The test on the length of the list never decides: distinct positions inside the block are at most 255. -/
theorem BlockInRange.list_length_le {nsym : Nat} {r e : Poly} (h : BlockInRange nsym r e) : e.length ≤ 255 := by
  have hsub : e.map BitVec.toNat ⊆ List.range r.length := fun i hi => by
    obtain ⟨p, hp, rfl⟩ := List.mem_map.1 hi
    exact List.mem_range.2 (h.inside p hp)
  have hle := ((h.nodup.map BitVec.toNat_injective).subperm hsub).length_le
  rw [List.length_map, List.length_range] at hle
  exact hle.trans h.length_le

theorem blockOperands_eq_ok {nsym : Nat} {r e : Poly} {u : Unit} :
    blockOperands nsym r e = .ok u ↔ BlockInRange nsym r e := by
  simp only [blockOperands, bind_eq_ok, require_eq_ok, Bool.and_eq_true, decide_eq_true_eq, listBelow_eq_true,
    exists_const]
  constructor
  · rintro ⟨⟨⟨hpos, hle⟩, hnsym⟩, ⟨-, hin⟩, hnodup⟩
    exact ⟨hpos, hle, hnsym, hin, hnodup⟩
  · intro h
    exact ⟨⟨⟨h.length_pos, h.length_le⟩, h.nsym_le⟩, ⟨h.list_length_le, h.inside⟩, h.nodup⟩

theorem blockOperands_of_outOfRange {nsym : Nat} {r e : Poly} (h : ¬ BlockInRange nsym r e) :
    blockOperands nsym r e = .error .cmdOperand := by
  cases hres : blockOperands nsym r e with
  | ok u => exact absurd (blockOperands_eq_ok.1 hres) h
  | error why => rw [blockOperands_error hres]

/-! The commands. -/

section
variable {s : State} (d : PIx)

theorem exec_filler_of_outOfRange {a pp : PIx} (h : ¬ BlockInRange s.nsym.toNat (s.getP a) (s.getP pp)) :
    exec (.filler d a pp) s = .next (s.raise .cmdOperand) := by
  rw [exec, execFiller, State.nsymN, blockOperands_of_outOfRange h]
  rfl

theorem exec_filler_of_tooMany {a pp : PIx} (h : BlockInRange s.nsym.toNat (s.getP a) (s.getP pp))
    (hcap : (s.getP pp).length > s.nsym.toNat) : exec (.filler d a pp) s = .next (s.raise .uncCapacity) := by
  rw [exec, execFiller, State.nsymN, blockOperands_eq_ok (u := ()).2 h, bind_ok, decide_eq_false hcap.not_ge]
  rfl

theorem exec_filler_of_fits {a pp : PIx} (hs : s.TablesBuilt) (h : BlockInRange s.nsym.toNat (s.getP a) (s.getP pp))
    (hcap : (s.getP pp).length ≤ s.nsym.toNat) : exec (.filler d a pp) s =
      .next (((s.setP d (applyMags (s.getP a) (s.getP pp)
        (fillMags s.tables (s.getP a) (s.getP pp) s.nsym.toNat))).setNcorr (s.getP pp).length).setSz
          (allZero (syndrome s.tables (s.getP a) s.nsym.toNat))).complete := by
  obtain ⟨hc, htab⟩ := hs
  have hforney := forney_erasLoc hc h.nodup
    (fun p hp => Nat.le_of_lt_succ ((h.inside p hp).trans_le h.length_le)) (s.getP a) s.nsym.toNat
  rw [← htab] at hforney
  rw [exec, execFiller, State.nsymN, blockOperands_eq_ok (u := ()).2 h, bind_ok, decide_eq_true hcap, fill, hforney]
  rfl

theorem exec_forney_of_inRange {l o pp : PIx} (hlen : (s.getP pp).length ≤ 255)
    (hpos : ∀ p ∈ s.getP pp, p.toNat ≤ 254) : exec (.forney d l o pp) s =
      s.perform (forney s.tables (s.getP l) (s.getP o) (s.getP pp) >>= fun m => .ok (s.setP d m)) := by
  rw [exec, execForney, positionList_eq_ok (u := ()).2 ⟨hlen, hpos⟩]
  rfl

theorem exec_apply_of_inRange {a pp m : PIx} (hlen : (s.getP pp).length = (s.getP m).length)
    (hpos : ∀ p ∈ s.getP pp, p.toNat < (s.getP a).length) : exec (.apply d a pp m) s =
      .next (s.setP d (applyMags (s.getP a) (s.getP pp) (s.getP m))).complete := by
  rw [exec, execApply, decide_eq_true hlen, List.all_eq_true.2 fun p hp => decide_eq_true (hpos p hp)]
  rfl

theorem exec_apply_of_outOfRange {a pp m : PIx}
    (h : (s.getP pp).length ≠ (s.getP m).length ∨ ∃ p ∈ s.getP pp, p.toNat ≥ (s.getP a).length) :
    exec (.apply d a pp m) s = .next (s.raise .cmdOperand) := by
  rw [exec, execApply]
  obtain hne | ⟨p, hp, hge⟩ := h
  · rw [decide_eq_false hne]
    rfl
  · rw [List.all_eq_false.2 ⟨p, hp, mt of_decide_eq_true hge.not_gt⟩, Bool.and_false]
    rfl

end

end Sys2Proof.Machine
end

section
/-! The statements of 46_forney.md. -/

open Sys2Proof Sys2Proof.Machine

/-- Settles O35: the list is mapped entry by entry, and the first entry with the denominator 0 ends it. -/
theorem forneyComputesMagnitudes : Obligations.ForneyComputesMagnitudes := by
  intro s d l o pp
  refine ⟨decodeOfEncode (.forney d l o pp) rfl, fun hout => ?_, fun hlen hpos => ⟨fun hne => ?_, ?_⟩⟩
  · rw [exec, execForney, positionList_of_outOfRange hout]
    rfl
  · refine ⟨(s.getP pp).map (forneyMag s.tables (s.getP l) (s.getP o)), ?_, List.length_map _, fun j hj => ?_⟩
    · rw [exec_forney_of_inRange d hlen hpos, forney_of_ne_zero _ hne]
      rfl
    · rw [coef_of_lt (by rwa [List.length_map]), List.getElem_map, coef_of_lt hj]
      rfl
  · rintro ⟨p, hp, hzero⟩
    refine ⟨_, ?_, rfl, Bool.or_true _⟩
    rw [exec_forney_of_inRange d hlen hpos, forney_of_zero _ hp hzero]
    rfl

/-- Settles O38: each entry of the list adds its magnitude to one lane. -/
theorem applyXorsMagnitudes : Obligations.ApplyXorsMagnitudes := fun _ d a pp m =>
  ⟨decodeOfEncode (.apply d a pp m) rfl, fun hlen hpos =>
    ⟨_, exec_apply_of_inRange d hlen hpos, length_applyMags _ _ _, coef_applyMags hlen hpos⟩,
    exec_apply_of_outOfRange d⟩

/-- Settles O36: the erasure locator of distinct positions has no zero denominator at them. -/
theorem fillerCompletes : Obligations.FillerCompletes := by
  intro s d a pp hs
  refine ⟨decodeOfEncode (.filler d a pp) rfl, fun hout => exec_filler_of_outOfRange d fun h => ?_,
    fun hmin hmax hnsym _ hin hnodup => ?_⟩
  · obtain hlt | hgt | hgt | hgt | ⟨p, hp, hge⟩ | hdup := hout
    · exact hlt.not_ge h.length_pos
    · exact hgt.not_ge h.length_le
    · exact hgt.not_ge h.nsym_le
    · exact hgt.not_ge h.list_length_le
    · exact hge.not_gt (h.inside p hp)
    · exact hdup h.nodup
  · have h : BlockInRange s.nsym.toNat (s.getP a) (s.getP pp) := ⟨hmin, hmax, hnsym, hin, hnodup⟩
    refine ⟨exec_filler_of_tooMany d h, fun hcap => ⟨_, _, _, exec_filler_of_fits d hs h hcap, ?_, rfl,
      length_applyMags _ _ _, fun i => coef_applyMags_of_unlisted (length_fillMags _ _ _ _) hin,
      allZero_syndrome _ _ _⟩⟩
    obtain ⟨hc, htab⟩ := hs
    rw [htab]
    exact forney_erasLoc hc hnodup (fun p hp => Nat.le_of_lt_succ ((hin p hp).trans_le hmax)) _ _

/-- Settles O37: for a list that covers the noise the magnitudes of the filler are the noise. -/
theorem fillerRestoresCodeword : Obligations.FillerRestoresCodeword := by
  intro s d a pp c hs hmin hmax hnsym hin hnodup hcap hword hagree
  refine ⟨_, exec_filler_of_fits d hs ⟨hmin, hmax, hnsym, hin, hnodup⟩ hcap, rfl, ?_, rfl⟩
  obtain ⟨hc, htab⟩ := hs
  rw [htab] at hword ⊢
  rw [State.getP_complete, State.getP_setSz, State.getP_setNcorr, State.getP_setP_self]
  exact applyMags_fillMags hc hmax hin hnodup hcap hword hagree

end

section
/-! SUPPORT. The 256 lanes of a polynomial register (10_state.md rule R23): with built tables every command that
completes writes values that fit, its operands fitting. -/

namespace Sys2Proof.Machine

/-! The values the units compute. -/

theorem State.nsymN_le (s : State) : s.nsymN ≤ 255 := Nat.le_of_lt_succ s.nsym.isLt

theorem length_polyMul_le {t : Tables} {a b : Poly} (h : ¬(deg a ≥ 0 ∧ deg b ≥ 0 ∧ deg a + deg b > 255)) :
    (polyMul t a b).length ≤ 256 := by
  rw [length_polyMul]
  split_ifs <;> omega

theorem length_evaluator_le (t : Tables) (syn loc : Poly) (nsym : Nat) : (evaluator t syn loc nsym).length ≤ nsym :=
  (length_trim_le _).trans (by simp)

theorem length_le_of_deg_le {p : Poly} (hp : Trimmed p) {n : Nat} (h : deg p ≤ n) : p.length ≤ n + 1 := by
  have hlen := length_of_trimmed hp
  omega

theorem length_scanRoots_le (t : Tables) (p : Poly) : (scanRoots t p).length ≤ 256 :=
  (List.length_filter_le _ _).trans (by simp [fieldElements])

theorem length_findRoots_le (t : Tables) (p : Poly) : (findRoots t p).1.length ≤ 256 := by
  by_cases h : ((scanRoots t p).length : Int) = deg p
  · rw [findRoots_of_count h]
    exact length_scanRoots_le t p
  · rw [findRoots_of_miscount h]
    exact Nat.zero_le _

theorem length_positionsOf (t : Tables) (roots : Poly) : (positionsOf t roots).length = roots.length :=
  List.length_map _

theorem length_of_forney {t : Tables} {loc o pos m : Poly} (h : forney t loc o pos = .ok m) :
    m.length = pos.length := by
  induction pos generalizing m with
  | nil => cases h; rfl
  | cons p pos ih =>
    rw [forney_cons, bind_eq_ok] at h
    obtain ⟨-, -, h⟩ := h
    obtain ⟨rest, hrest, hm⟩ := bind_eq_ok.1 h
    cases hm
    rw [List.length_cons, List.length_cons, ih hrest]

/-- The remainders and cofactors share the degree of the operands (44_locator.md rule R172). -/
theorem length_euclidRun_le {c : Config} (hc : primitive c = true) {r1 r2 : Poly} {up : Int} (hup : -1 ≤ up)
    (h1 : r1.length ≤ 256) (h2 : r2.length ≤ 256) :
    let x := euclidRun (builtTables c) r1 r2 up
    (x.ra.length ≤ 256 ∧ x.rb.length ≤ 256) ∧ (x.ua.length ≤ 256 ∧ x.ub.length ≤ 256) ∧
      x.va.length ≤ 256 ∧ x.vb.length ≤ 256 := by
  obtain ⟨K, _, ⟨f⟩⟩ := exists_fieldView hc
  obtain ⟨⟨hra, hrb⟩, ⟨hua, hub⟩, hva, hvb⟩ := trimmed_euclidRun (builtTables c) r1 r2 up
  have hx := euclidInvariant_euclidRun hc f r1 r2 hup (f.natDegree_poly_le_of_length (n := 255) h1)
    (f.natDegree_poly_le_of_length (n := 255) h2)
  have hfit {p q : Poly} (hp : Trimmed p) (h : (f.poly p).natDegree + (f.poly q).natDegree ≤ 255) : p.length ≤ 256 :=
    f.length_le_of_natDegree hp (n := 255) (Nat.le_of_add_right_le h)
  exact ⟨⟨hfit hra ((Nat.add_comm _ _).trans_le hx.deg_ub_ra), hfit hrb ((Nat.add_comm _ _).trans_le hx.deg_ua_rb)⟩,
    ⟨hfit hua hx.deg_ua_rb, hfit hub hx.deg_ub_ra⟩, hfit hva hx.deg_va_rb, hfit hvb hx.deg_vb_ra⟩

theorem euclidLocator_eq_ok {t : Tables} {syn e loc : Poly} {nsym : Nat} (h : euclidLocator t syn e nsym = .ok loc) :
    coef (euclidCofactor t syn e nsym) 0 ≠ 0 ∧
      loc = normalLocator t (euclidCofactor t syn e nsym) (erasLoc t e) := by
  by_cases hzero : coef (euclidCofactor t syn e nsym) 0 = 0
  · rw [euclidLocator_of_zero hzero] at h
    cases h
  · rw [euclidLocator_of_ne_zero hzero] at h
    cases h
    exact ⟨hzero, rfl⟩

theorem bmLocator_bounds {c : Config} (hc : primitive c = true) (syn e : Poly) {nsym : Nat} (hcap : e.length ≤ nsym) :
    coef (bmLocator (builtTables c) syn e nsym) 0 = 1 ∧ deg (bmLocator (builtTables c) syn e nsym) ≤ nsym := by
  obtain ⟨K, _, ⟨f⟩⟩ := exists_fieldView hc
  obtain ⟨y, hy, hinv⟩ := bmLocator_spec hc f syn e hcap
  constructor
  · rw [← f.el.apply_eq_iff_eq, ← f.coeff_poly, hy, hinv.coeff_zero, f.el_one]
  · rw [← f.natDegree_poly_le, hy]
    exact hinv.deg_c.trans hinv.le_index

theorem length_bmLocator_le {c : Config} (hc : primitive c = true) (syn e : Poly) {nsym : Nat}
    (hcap : e.length ≤ nsym) : (bmLocator (builtTables c) syn e nsym).length ≤ nsym + 1 :=
  length_le_of_deg_le (trimmed_trim _) (bmLocator_bounds hc syn e hcap).2

theorem length_of_euclidLocator {c : Config} (hc : primitive c = true) {syn e loc : Poly} {nsym : Nat}
    (hcap : e.length ≤ nsym) (h : euclidLocator (builtTables c) syn e nsym = .ok loc) : loc.length ≤ nsym + 1 := by
  obtain ⟨-, rfl⟩ := euclidLocator_eq_ok h
  exact length_le_of_deg_le (trimmed_normalLocator _ _ _) (deg_normalLocator_le hc _ _ hcap)

theorem length_of_correctBlock {t : Tables} {r syn e loc b : Poly} {nsym k : Nat} {recheck : Bool}
    (h : correctBlock t r syn e loc nsym recheck = .ok (b, k)) : b.length = r.length := by
  simp only [correctBlock, bind_eq_ok] at h
  obtain ⟨-, -, -, -, -, -, m, -, -, -, hb⟩ := h
  cases hb
  exact length_applyMags r _ m

theorem length_of_rsDecode {t : Tables} {r e b : Poly} {nsym k : Nat} {alg : Algorithm} {recheck : Bool}
    (h : rsDecode t r nsym e alg recheck = .ok (b, k)) : b.length = r.length := by
  rw [rsDecode, bind_eq_ok] at h
  obtain ⟨-, -, h⟩ := h
  dsimp only at h
  split_ifs at h
  · cases h; rfl
  · obtain ⟨loc, -, hloc⟩ := bind_eq_ok.1 h
    exact length_of_correctBlock hloc

theorem length_of_fill {t : Tables} {r pos : Poly} {nsym : Nat} {x : Poly × Poly} (h : fill t r pos nsym = .ok x) :
    x.1.length = r.length := by
  obtain ⟨m, -, hx⟩ := bind_eq_ok.1 h
  cases hx
  exact length_applyMags r pos m

theorem length_of_loadBytes {s : State} {a b : RIx} {vs : List Byte} (h : s.loadBytes a b = .ok vs) :
    vs.length ≤ 256 := by
  rw [State.loadBytes, bind_eq_ok] at h
  obtain ⟨_, hreq, h⟩ := h
  obtain ⟨_, -, hvs⟩ := bind_eq_ok.1 h
  cases hvs
  rw [State.length_memRead]
  exact of_decide_eq_true (require_eq_ok.1 hreq)

theorem positionList_length_le {e : Poly} {u : Unit} (h : positionList e = .ok u) : e.length ≤ 255 :=
  (positionList_eq_ok.1 h).1

theorem erasureOperand_length_le {nsym : Nat} {e : Poly} {u : Unit} (h : erasureOperand nsym e = .ok u) :
    e.length ≤ nsym := by
  obtain ⟨-, -, hreq⟩ := bind_eq_ok.1 h
  exact of_decide_eq_true (require_eq_ok.1 hreq)

/-! The commands. -/

theorem State.LanesBounded.setP {s : State} (hs : s.LanesBounded) (d : PIx) {v : Poly} (hv : v.length ≤ 256) :
    (s.setP d v).LanesBounded := fun j => by
  rw [State.getP_setP]
  split_ifs
  · exact hv
  · exact hs j

/-- The state a body gives when it completes fits the registers. -/
def KeepsLanes (x : Except Cause State) : Prop := ∀ t, x = .ok t → t.LanesBounded

theorem KeepsLanes.ok {t : State} (h : t.LanesBounded) : KeepsLanes (.ok t) := fun _ ht => Except.ok.inj ht ▸ h

theorem KeepsLanes.bind {α : Type} {x : Except Cause α} {f : α → Except Cause State}
    (h : ∀ a, x = .ok a → KeepsLanes (f a)) : KeepsLanes (x >>= f) := fun t ht => by
  obtain ⟨a, ha, hf⟩ := bind_eq_ok.1 ht
  exact h a ha t hf

theorem KeepsLanes.perform {s t : State} {x : Except Cause State} (hx : KeepsLanes x) (hs : s.LanesBounded)
    (h : s.perform x = .next t) : t.LanesBounded := by
  obtain ⟨u, hu, rfl⟩ | ⟨c, -, rfl⟩ := State.perform_eq_next.1 h
  · exact hx u hu
  · exact hs

/-- With built tables a command keeps the bound of rule R23. -/
theorem exec_lanesBounded {i : Instr} {s t : State} (htab : s.TablesBuilt) (hs : s.LanesBounded)
    (h : exec i s = .next t) : t.LanesBounded := by
  obtain ⟨hc, htab⟩ := htab
  have hnsym := s.nsymN_le
  cases i <;>
    simp only [exec, execLi, execLdp, execStp, execLdl, execStl, execPmov, execPlen, execPdeg, execPtrim, execGfadd,
      execGfmul, execGfinv, execGfpow, execGflog, execGfexp, execPadd, execPmul, execPscale, execPdiv, execPeval,
      execPderiv, execSynd, execEraloc, execOmega, execXgcd, execSugi, execEloc, execBmloc, execFroots, execGetpos,
      execForney, execFiller, execApply, execRsdec] at h <;>
    refine KeepsLanes.perform ?_ hs h
  case li | plen | pdeg | gfexp => exact .ok hs
  case peval => exact .bind fun _ _ => .ok hs
  case gfadd | gfmul | gfinv | gfpow | gflog => exact .bind fun _ _ => .bind fun _ _ => .ok hs
  case stp | stl => exact .bind fun _ _ => .ok hs
  case ldp d a b =>
    exact .bind fun vs hvs => .ok (hs.setP d ((List.length_reverse).trans_le (length_of_loadBytes hvs)))
  case ldl d a b => exact .bind fun vs hvs => .ok (hs.setP d (length_of_loadBytes hvs))
  case pmov d a => exact .ok (hs.setP d (hs a))
  case ptrim d a => exact .ok (hs.setP d ((length_trim_le _).trans (hs a)))
  case padd d a b => exact .ok (hs.setP d ((length_polyAdd_le _ _).trans (max_le (hs a) (hs b))))
  case pmul d a b =>
    exact .bind fun _ hreq => .ok (hs.setP d (length_polyMul_le (of_decide_eq_true (require_eq_ok.1 hreq))))
  case pscale d a b => exact .bind fun _ _ => .ok (hs.setP d ((length_polyScale_le _ _ _).trans (hs a)))
  case pdiv q r a b =>
    refine .bind fun _ hreq => .ok ?_
    have hb : deg (s.getP b) ≥ 0 := of_decide_eq_true (require_eq_ok.1 hreq)
    have ha := deg_lt_length (s.getP a)
    have hlen := hs a
    obtain ⟨hquot, hrem⟩ := length_polyDivmod_le s.tables (s.getP a) (s.getP b)
    exact (hs.setP q (hquot.trans (by omega))).setP r (hrem.trans ((length_trim_le _).trans hlen))
  case pderiv d a =>
    have hlen := hs a
    exact .ok (hs.setP d ((length_polyDeriv_le _).trans (by omega)))
  case synd d a => exact .ok (hs.setP d ((length_syndrome _ _ _).trans_le (by omega)))
  case eraloc d e =>
    refine .bind fun _ he => .ok (hs.setP d ?_)
    rw [htab, length_erasLoc hc]
    exact Nat.succ_le_succ (positionList_length_le he)
  case omega d x l => exact .ok (hs.setP d ((length_evaluator_le _ _ _ _).trans (by omega)))
  case xgcd u v r a b =>
    obtain ⟨⟨hra, -⟩, ⟨hua, -⟩, hva, -⟩ := length_euclidRun_le hc (le_refl (-1)) (hs a) (hs b)
    rw [← htab] at hra hua hva
    exact .ok (((hs.setP u hua).setP v hva).setP r hra)
  case sugi u v r a b c =>
    refine .bind fun _ hreq => .ok ?_
    have hup : s.sint c ≥ -1 := of_decide_eq_true (require_eq_ok.1 hreq)
    obtain ⟨⟨-, hrb⟩, ⟨-, hub⟩, -, hvb⟩ := length_euclidRun_le hc hup (hs a) (hs b)
    rw [← htab] at hrb hub hvb
    exact ((hs.setP u hub).setP v hvb).setP r hrb
  case eloc d x e validate =>
    refine .bind fun _ he => .bind fun loc hloc => .bind fun _ _ => .ok (hs.setP d ?_)
    rw [htab] at hloc
    exact (length_of_euclidLocator hc (erasureOperand_length_le he) hloc).trans (by omega)
  case bmloc d x e validate =>
    refine .bind fun _ he => .bind fun _ _ => .ok (hs.setP d ?_)
    rw [htab]
    exact (length_bmLocator_le hc _ _ (erasureOperand_length_le he)).trans (by omega)
  case froots d a => exact .ok (hs.setP d (length_findRoots_le _ _))
  case getpos d a =>
    exact .bind fun _ _ => .ok (hs.setP d ((length_positionsOf _ _).trans_le (length_findRoots_le _ _)))
  case forney d l o pp =>
    exact .bind fun _ _ => .bind fun _ hm => .ok (hs.setP d ((length_of_forney hm).trans_le (hs pp)))
  case filler d a pp =>
    exact .bind fun _ _ => .bind fun _ _ => .bind fun _ hx => .ok (hs.setP d ((length_of_fill hx).trans_le (hs a)))
  case apply d a pp m => exact .bind fun _ _ => .ok (hs.setP d ((length_applyMags _ _ _).trans_le (hs a)))
  case rsdec d a e =>
    exact .bind fun _ _ => .bind fun _ hx => .bind fun _ _ =>
      .ok (hs.setP d ((length_of_rsDecode hx).trans_le (hs a)))

end Sys2Proof.Machine
end

section
/-! SUPPORT. The two ends of a command and the moves of the host, field by field (60_exceptions.md rules R231, R236 and
R238; 20_memory.md rule R64), and with them the invariant along a step. -/

namespace Sys2Proof.Machine

/-! The ends of a command. -/

/-- The two ends of `exec` told apart by `RESULT` (rules R231, R236). -/
theorem exec_ends {i : Instr} {s t : State} (h : exec i s = .next t) :
    (t.result = .ok ∧ t.einfo = s.einfo ∧ t.status.fatal = s.status.fatal) ∨
      (t.result ≠ .ok ∧ mayRaise s.ctrl i t.result ∧ t = s.raise t.result) := by
  obtain ⟨u, hu, rfl⟩ | ⟨c, hc, rfl⟩ := exec_cases h
  · rw [hu]
    exact .inl ⟨rfl, rfl, rfl⟩
  · exact .inr ⟨(mayRaise_ne hc).1, hc, rfl⟩

/-- Either end clears BUSY and sets DONE, and no command clears FATAL. -/
theorem exec_status {i : Instr} {s t : State} (h : exec i s = .next t) :
    t.status.busy = false ∧ t.status.done = true ∧ (s.status.fatal = true → t.status.fatal = true) := by
  obtain ⟨u, hu, rfl⟩ | ⟨c, -, rfl⟩ := exec_cases h
  · rw [hu]
    exact ⟨rfl, rfl, id⟩
  · exact ⟨rfl, rfl, fun hf => by rw [State.raise_status, hf, Bool.true_or]⟩

/-- The core step, for a command and for an illegal word alike, clears BUSY and sets DONE (rule R231). -/
theorem coreTurn_status_of_busy {s t : State} (hbusy : s.status.busy = true) (h : coreTurn s = .next t) :
    t.status.busy = false ∧ t.status.done = true := by
  obtain ⟨hidle, -⟩ | ⟨-, i, -, hexec⟩ | ⟨-, why, -, rfl⟩ := coreTurn_cases h
  · exact absurd (hbusy.symm.trans hidle) (by decide)
  · obtain ⟨hb, hd, -⟩ := exec_status hexec
    exact ⟨hb, hd⟩
  · exact ⟨rfl, rfl⟩

theorem coreTurn_of_idle {s : State} (hidle : s.status.busy = false) : coreTurn s = .next s := by
  rw [coreTurn, hidle]
  rfl

theorem coreTurn_of_decode {s : State} {i : Instr} (hbusy : s.status.busy = true) (hdec : decode s.pend = .ok i) :
    coreTurn s = exec i s := by
  rw [coreTurn, if_pos hbusy, coreStep, hdec]

/-! The host's moves. -/

/-- What a host operation other than an accepted write to `CMD` can change (10_state.md rule R26). -/
abbrev OnlyHostWrites (s t : State) : Prop :=
  t = { s with
    r := t.r, ctrl := t.ctrl, nsym := t.nsym, ien := t.ien, buf := t.buf, reply := t.reply
    status := { s.status with done := t.status.done, ovr := t.status.ovr } }

theorem onlyHostWrites_write32 {s : State} {off : Nat} (v : Word) (h : off ≠ 0) :
    OnlyHostWrites s (s.write32 off v) := by
  unfold State.write32
  rw [if_neg h]
  split_ifs <;> rfl

/-- A host operation hands over a command, when neither BUSY nor FATAL forbids it, or stays within `OnlyHostWrites`. -/
theorem hostOp_moves {s t : State} {op : HostOp} (h : s.hostOp op = .next t) :
    OnlyHostWrites s t ∨ (s.status.busy = false ∧ s.status.fatal = false ∧ ∃ w, t = s.acceptCmd w) := by
  obtain ⟨_, rfl⟩ | rfl | ⟨off, v, -, -, hbusy, hfatal, rfl⟩ | ⟨off, v, -, -, -, rfl⟩ := hostOp_cases h
  · exact .inl rfl
  · exact .inl rfl
  · by_cases hoff : off = 0
    · subst hoff
      exact .inr ⟨hbusy, hfatal rfl, v, rfl⟩
    · exact .inl (onlyHostWrites_write32 v hoff)
  · exact .inl rfl

/-- The refusals of the host port are the ungiven forms (20_memory.md rule R65, 60_exceptions.md rule R242). -/
theorem wordForm_eq_true {off : Nat} : wordForm off = true ↔ ¬(off % 4 ≠ 0 ∨ 0x800 ≤ off) := by
  simp only [wordForm, Bool.and_eq_true, beq_iff_eq, decide_eq_true_eq]
  omega

theorem byteForm_eq_true {off : Nat} : byteForm off = true ↔ ¬(off < 0x400 ∨ 0x800 ≤ off) := by
  simp only [byteForm, Bool.and_eq_true, decide_eq_true_eq]
  omega

theorem hostOp_of_ungiven (s : State) {op : HostOp} (h : UngivenForm op) :
    s.hostOp op = .refused (.hostAccessForm op) := by
  cases op with
  | read32 | write32 => exact if_neg (mt wordForm_eq_true.1 (not_not.2 h))
  | read8 | write8 => exact if_neg (mt byteForm_eq_true.1 (not_not.2 h))

theorem hostOp_of_given (s : State) {op : HostOp} (h : ¬ UngivenForm op) : ∃ t, s.hostOp op = .next t := by
  cases op with
  | read32 => exact ⟨_, if_pos (wordForm_eq_true.2 h)⟩
  | read8 => exact ⟨_, if_pos (byteForm_eq_true.2 h)⟩
  | write32 off v =>
    rw [State.hostOp, if_pos (wordForm_eq_true.2 h)]
    split_ifs <;> exact ⟨_, rfl⟩
  | write8 off v =>
    rw [State.hostOp, if_pos (byteForm_eq_true.2 h)]
    split_ifs <;> exact ⟨_, rfl⟩

/-! A step by the turn it takes. -/

theorem step_of_host {s : State} {op : HostOp} {rest : List Turn} (h : s.agenda = .host op :: rest) :
    step s = s.takeTurn.hostOp op := by
  rw [step, State.takeTurn, h]
  rfl

theorem step_of_reset {s : State} {rest : List Turn} (h : s.agenda = .reset :: rest) :
    step s = .next s.takeTurn.resetInput := by
  rw [step, State.takeTurn, h]
  rfl

/-- A turn that is neither the host's nor a reset is the core's. -/
theorem coreNext_or (s : State) :
    s.CoreNext ∨ (∃ op rest, s.agenda = .host op :: rest) ∨ ∃ rest, s.agenda = .reset :: rest := by
  rw [State.CoreNext]
  cases s.agenda with
  | nil => exact .inl (.inl rfl)
  | cons turn rest =>
    cases turn with
    | core => exact .inl (.inr rfl)
    | host op => exact .inr (.inl ⟨op, rest, rfl⟩)
    | reset => exact .inr (.inr ⟨rest, rfl⟩)

/-! Both ends of the table build at reset (70_reset_and_hazards.md rules R261, R262). -/

theorem resetInput_of_primitive {s : State} (h : primitive s.cfg = true) :
    s.resetInput.tables = builtTables s.cfg ∧ s.resetInput.status.tblRdy = true ∧
      s.resetInput.status.fatal = false ∧ s.resetInput.result = .ok := by
  simp [State.resetOf, buildTables, h]

theorem resetInput_of_nonprimitive {s : State} (h : primitive s.cfg = false) :
    s.resetInput.status.tblRdy = false ∧ s.resetInput.status.fatal = true ∧ s.resetInput.result = .cfgNonprim := by
  simp [State.resetOf, buildTables, h]

/-! The invariant along a step. -/

/-- A core with a pending command is not FATAL, so its tables are the built ones (10_state.md rules R28, R30). -/
theorem tablesBuilt_of_busy {s : State} (htab : s.TablesConsistent) (hstatus : s.StatusConsistent)
    (hbusy : s.status.busy = true) : s.TablesBuilt := by
  obtain ⟨hprim, hbuilt⟩ := htab
  obtain ⟨hexcl, hfatal⟩ := hstatus
  have hrdy : s.status.tblRdy = true := by
    by_contra hnot
    exact absurd ((hexcl hbusy).symm.trans (hfatal (by simpa using hnot))) (by decide)
  exact ⟨hprim.symm.trans hrdy, hbuilt hrdy⟩

theorem exec_invariant {i : Instr} {s t : State} (hs : s.Invariant) (hbusy : s.status.busy = true)
    (h : exec i s = .next t) : t.Invariant := by
  obtain ⟨htab, hstatus, hlanes, hmem⟩ := hs
  obtain ⟨⟨hcfg, htables, -, -, -, -, hrdy, -⟩, -⟩ := exec_control h
  obtain ⟨hidle, -, hfatal⟩ := exec_status h
  refine ⟨?_, ⟨fun hb => absurd (hidle.symm.trans hb) (by decide), fun hr => hfatal (hstatus.2 (hrdy.symm.trans hr))⟩,
    exec_lanesBounded (tablesBuilt_of_busy htab hstatus hbusy) hlanes h, exec_memoryCanonical h hmem⟩
  rwa [State.TablesConsistent, hcfg, htables, hrdy]

theorem raise_invariant {s : State} (hs : s.Invariant) (c : Cause) : (s.raise c).Invariant := by
  obtain ⟨htab, ⟨-, hfatal⟩, hlanes, hmem⟩ := hs
  refine ⟨htab, ⟨nofun, fun hr => ?_⟩, hlanes, hmem⟩
  rw [State.raise_status, hfatal hr, Bool.true_or]

theorem coreTurn_invariant {s t : State} (hs : s.Invariant) (h : coreTurn s = .next t) : t.Invariant := by
  obtain ⟨-, rfl⟩ | ⟨hbusy, i, -, hexec⟩ | ⟨-, why, -, rfl⟩ := coreTurn_cases h
  · exact hs
  · exact exec_invariant hs hbusy hexec
  · exact raise_invariant hs .cmdIllegal

theorem hostOp_invariant {s t : State} {op : HostOp} (hs : s.Invariant) (h : s.hostOp op = .next t) :
    t.Invariant := by
  obtain ⟨htab, hstatus, hlanes, hmem⟩ := hs
  have hmem' := hostOp_memoryCanonical h hmem
  obtain hwrites | ⟨-, hfatal, w, rfl⟩ := hostOp_moves h
  · rw [hwrites]
    exact ⟨htab, hstatus, hlanes, hmem'⟩
  · exact ⟨htab, ⟨fun _ => hfatal, hstatus.2⟩, hlanes, hmem'⟩

theorem resetInput_invariant (s : State) : s.resetInput.Invariant := invariant_resetOf s.cfg (s.draw + 1)

end Sys2Proof.Machine
end

section
/-! The statements of 60_exceptions.md and 70_reset_and_hazards.md. -/

open Sys2Proof Sys2Proof.Machine

/-- Settles O58, turn by turn: a core that runs a command has the built tables, the host hands over a command only when
the core is not FATAL, and reset gives the invariant whatever the state was. -/
theorem stepKeepsInvariant : Obligations.StepKeepsInvariant := by
  intro s t hs h
  obtain ⟨-, hcore⟩ | ⟨op, rest, -, hhost⟩ | ⟨rest, -, rfl⟩ := step_cases h
  · exact coreTurn_invariant (s := s.takeTurn) hs hcore
  · exact hostOp_invariant (s := s.takeTurn) hs hhost
  · exact resetInput_invariant _

/-- Settles O5: the core's turn is the core step, which performs what the pending word decodes to. -/
theorem stepPerformsPendingCommand : Obligations.StepPerformsPendingCommand := by
  intro s i hnext hbusy hdec
  rw [step_of_coreNext hnext]
  exact coreTurn_of_decode (s := s.takeTurn) hbusy hdec

/-- Settles O6: either end of a command, and the illegal word, clears BUSY and sets DONE. -/
theorem coreStepIsTotal : Obligations.CoreStepIsTotal := by
  intro s hnext
  rw [step_of_coreNext hnext]
  refine ⟨fun hbusy => ?_, fun hidle => coreTurn_of_idle (s := s.takeTurn) hidle⟩
  obtain ⟨t, ht⟩ := coreTurn_total s.takeTurn
  exact ⟨t, ht, coreTurn_status_of_busy (s := s.takeTurn) hbusy ht⟩

/-- Settles O7: a failure is `State.raise` of the cause in `RESULT`, and no command fails with the cause OK. -/
theorem failureChangesNothingElse : Obligations.FailureChangesNothingElse := by
  intro i s t h
  obtain ⟨hok, heinfo, -⟩ | ⟨hne, -, hraise⟩ := exec_ends h
  · exact ⟨fun hne => absurd hok hne, fun _ => ⟨by rw [hok]; rfl, heinfo⟩⟩
  · exact ⟨fun _ => hraise, fun hok => absurd hok hne⟩

/-- Settles O8: only a failure writes `EINFO` and FATAL, and no command writes the control registers. -/
theorem successEndsCommand : Obligations.SuccessEndsCommand := by
  intro i s t h hok
  obtain ⟨-, heinfo, hfatal⟩ | ⟨hne, -⟩ := exec_ends h
  · obtain ⟨hbusy, hdone, -⟩ := exec_status h
    exact ⟨heinfo, hfatal, hbusy, hdone, (exec_control h).1⟩
  · exact absurd hok hne

/-- Settles O9: a command completes or fails with a cause of its row. -/
theorem causesOfEachCommand : Obligations.CausesOfEachCommand := by
  refine ⟨rfl, fun i s t h => ?_⟩
  obtain ⟨hok, -⟩ | ⟨-, hmay, -⟩ := exec_ends h
  · exact .inl hok
  · exact .inr hmay

/-- Settles O53: the core and reset always answer a next state, and the host port refuses by the form alone. -/
theorem onlyUngivenHostFormsAreRefused : Obligations.OnlyUngivenHostFormsAreRefused := by
  refine fun s => ⟨fun op rest hagenda hform => ?_, fun hgiven => ?_⟩
  · rw [step_of_host hagenda, hostOp_of_ungiven _ hform]
  · obtain hnext | ⟨op, rest, hagenda⟩ | ⟨rest, hagenda⟩ := coreNext_or s
    · rw [step_of_coreNext hnext]
      exact coreTurn_total _
    · rw [step_of_host hagenda]
      exact hostOp_of_given _ (hgiven op rest hagenda)
    · exact ⟨_, step_of_reset hagenda⟩

/-- Settles O54: with BUSY = 0 the core's turn is idle, and under FATAL the host hands over no command. -/
theorem fatalLatchHolds : Obligations.FatalLatchHolds := by
  intro s t hfatal hidle hreset h
  obtain ⟨-, hcore⟩ | ⟨op, rest, -, hhost⟩ | ⟨rest, hagenda, -⟩ := step_cases h
  · rw [coreTurn_of_idle (s := s.takeTurn) hidle] at hcore
    cases hcore
    exact ⟨hfatal, hidle, rfl, rfl, rfl, rfl, rfl, fun _ => rfl⟩
  · obtain hwrites | ⟨-, hnot, -⟩ := hostOp_moves hhost
    · rw [hwrites]
      exact ⟨hfatal, hidle, rfl, rfl, rfl, rfl, rfl, fun _ => rfl⟩
    · exact absurd (hfatal.symm.trans hnot) (by decide)
  · exact absurd (by rw [hagenda]; rfl) hreset

/-- Settles O55: reset clears `IEN`, and a command sets DONE and leaves `IEN`. -/
theorem interruptOutput : Obligations.InterruptOutput := by
  refine ⟨fun s => by simp only [State.irq, Bool.or_eq_true, Bool.and_eq_true], fun s => ?_, fun i s t h hien => ?_⟩
  · simp only [State.irq, State.resetInput_ien, Bool.and_false, Bool.or_false]
  · obtain ⟨-, hdone, -⟩ := exec_status h
    obtain ⟨⟨-, -, -, -, hsame, -⟩, -⟩ := exec_control h
    rw [State.irq, hdone, hsame, hien]
    rfl

/-- Settles O56: the reset input writes the reset values, and whether the build found a table depends on the polynomial
alone; a FATAL core drops a write to `CMD`. -/
theorem resetInputGivesResetValues : Obligations.ResetInputGivesResetValues := by
  intro s rest hagenda
  refine ⟨_, step_of_reset hagenda, fun i => ?_, fun i => ?_, ?_, rfl, rfl, rfl, ?_, ?_, rfl, rfl, rfl, rfl, rfl, ?_,
    fun hprim => ?_, fun hprim => ?_⟩
  · simp [State.getR]
  · simp [State.getP]
  · rw [State.resetInput_ctrl]
    rfl
  · rw [State.resetInput_flags]
    rfl
  · rw [State.resetInput_ien]
    rfl
  · rw [State.resetInput_agenda, State.takeTurn, hagenda]
    rfl
  · obtain ⟨htables, hrdy, hfatal, hresult⟩ := resetInput_of_primitive (s := s.takeTurn) hprim
    exact ⟨htables, hrdy, hfatal, by rw [hresult]; rfl⟩
  · obtain ⟨hrdy, hfatal, hresult⟩ := resetInput_of_nonprimitive (s := s.takeTurn) hprim
    exact ⟨hrdy, hfatal, by rw [hresult]; rfl, fun w => (cmdWriteIsAcceptedOrDropped _ w).2.1 (.inr hfatal)⟩
end

section
/-! SUPPORT. The decode of 47_orchestrator.md: the outcomes of RSDEC, of the decode and of the correction, one lemma per
test of rule R211 in its order; the positions of distinct roots, at which no Forney denominator is 0; and the correction
of a block within capacity. -/

namespace Sys2Proof.Machine

/-! RSDEC by the outcome of its decode (rule R212). -/

/-- The operand tests of RSDEC and the decode: the located count and the block, or the cause. -/
def State.decodeBlock (s : State) (a e : PIx) : Except Cause (Poly × Nat) := do
  blockOperands s.nsymN (s.getP a) (s.getP e)
  rsDecode s.tables (s.getP a) s.nsymN (s.getP e) s.ctrl.alg s.ctrl.recheck

section
variable {s : State} (d : PIx) {a e : PIx}

theorem exec_rsdec (s : State) (d a e : PIx) : exec (.rsdec d a e) s = s.perform (do
    let ck ← s.decodeBlock a e
    require (¬(s.ctrl.noerror ∧ ck.2 > 0)) .strictCorrected
    pure (((s.setP d ck.1).setNcorr ck.2).setSz (ck.2 = 0))) := by
  rw [State.decodeBlock, bind_assoc]
  rfl

theorem exec_rsdec_of_error {c : Cause} (h : s.decodeBlock a e = .error c) :
    exec (.rsdec d a e) s = .next (s.raise c) := by
  rw [exec_rsdec, h]
  rfl

/-- A decode that corrected nothing, or that strict mode does not watch. -/
theorem exec_rsdec_of_ok {b : Poly} {k : Nat} (h : s.decodeBlock a e = .ok (b, k))
    (hmode : s.ctrl.noerror = false ∨ k = 0) :
    exec (.rsdec d a e) s = .next (((s.setP d b).setNcorr k).setSz (k = 0)).complete := by
  have hpass : ¬(s.ctrl.noerror ∧ k > 0) := by
    rintro ⟨hstrict, hpos⟩
    obtain hlax | rfl := hmode
    · exact absurd (hstrict.symm.trans hlax) (by decide)
    · exact absurd hpos (lt_irrefl 0)
  rw [exec_rsdec, h, bind_ok, decide_eq_true hpass]
  rfl

theorem exec_rsdec_of_strict {b : Poly} {k : Nat} (h : s.decodeBlock a e = .ok (b, k))
    (hstrict : s.ctrl.noerror = true) (hk : 0 < k) :
    exec (.rsdec d a e) s = .next (s.raise .strictCorrected) := by
  rw [exec_rsdec, h, bind_ok, decide_eq_false (not_not.2 ⟨hstrict, hk⟩)]
  rfl

theorem decodeBlock_of_outOfRange (h : ¬ BlockInRange s.nsym.toNat (s.getP a) (s.getP e)) :
    s.decodeBlock a e = .error .cmdOperand := by
  rw [State.decodeBlock, State.nsymN, blockOperands_of_outOfRange h]
  rfl

theorem decodeBlock_of_inRange (h : BlockInRange s.nsym.toNat (s.getP a) (s.getP e)) :
    s.decodeBlock a e =
      rsDecode s.tables (s.getP a) s.nsym.toNat (s.getP e) s.ctrl.alg s.ctrl.recheck := by
  rw [State.decodeBlock, State.nsymN, blockOperands_eq_ok (u := ()).2 h, bind_ok]

theorem decodeBlock_eq_ok {ck : Poly × Nat} (h : s.decodeBlock a e = .ok ck) :
    BlockInRange s.nsym.toNat (s.getP a) (s.getP e) ∧
      rsDecode s.tables (s.getP a) s.nsym.toNat (s.getP e) s.ctrl.alg s.ctrl.recheck = .ok ck := by
  obtain ⟨_, hoperands, hdecode⟩ := bind_eq_ok.1 h
  exact ⟨blockOperands_eq_ok.1 hoperands, hdecode⟩

end

/-- The tests of rule R212 on the operands, as the statements say that one of them fails. -/
theorem not_blockInRange {nsym : Nat} {r e : Poly}
    (h : r.length < 1 ∨ r.length > 255 ∨ nsym > r.length ∨ e.length > 255 ∨ (∃ p ∈ e, p.toNat ≥ r.length) ∨
      ¬ e.Nodup) : ¬ BlockInRange nsym r e := fun hin => by
  obtain hlt | hgt | hgt | hgt | ⟨p, hp, hge⟩ | hdup := h
  · exact hlt.not_ge hin.length_pos
  · exact hgt.not_ge hin.length_le
  · exact hgt.not_ge hin.nsym_le
  · exact hgt.not_ge hin.list_length_le
  · exact hge.not_gt (hin.inside p hp)
  · exact hdup hin.nodup

section
variable {s : State} {d a e : PIx}

theorem decodeBlock_ne_error_ok : s.decodeBlock a e ≠ .error .ok := by
  intro h
  obtain hoperands | ⟨_, -, hdecode⟩ := bind_eq_error.1 h
  · exact absurd (blockOperands_error hoperands) (by decide)
  · simpa using rsDecode_error hdecode

/-- A successful RSDEC is a successful decode, written. -/
theorem decodeBlock_of_exec_ok {t : State} (h : exec (.rsdec d a e) s = .next t) (hok : t.result = .ok) :
    ∃ b k, s.decodeBlock a e = .ok (b, k) ∧ t = (((s.setP d b).setNcorr k).setSz (k = 0)).complete := by
  cases hdecode : s.decodeBlock a e with
  | error c =>
    cases h.symm.trans (exec_rsdec_of_error d hdecode)
    cases (hok : c = .ok)
    exact absurd hdecode decodeBlock_ne_error_ok
  | ok ck =>
    obtain ⟨b, k⟩ := ck
    by_cases hmode : s.ctrl.noerror = false ∨ k = 0
    · cases h.symm.trans (exec_rsdec_of_ok d hdecode hmode)
      exact ⟨b, k, rfl, rfl⟩
    · obtain ⟨hstrict, hk⟩ := not_or.1 hmode
      cases h.symm.trans (exec_rsdec_of_strict d hdecode (by simpa using hstrict) (Nat.pos_of_ne_zero hk))
      exact absurd (show Cause.strictCorrected = .ok from hok) (by decide)

end

/-! The decode (rule R211): the capacity for erasures, and the zero syndrome. -/

section
variable {t : Tables} {r e : Poly} {nsym : Nat} (alg : Algorithm) (recheck : Bool)

theorem rsDecode_of_tooMany (h : e.length > nsym) : rsDecode t r nsym e alg recheck = .error .uncCapacity := by
  rw [rsDecode, decide_eq_false h.not_ge]
  rfl

theorem rsDecode_of_codeword (hcap : e.length ≤ nsym) (h : Codeword t r nsym) :
    rsDecode t r nsym e alg recheck = .ok (r, 0) := by
  rw [rsDecode, decide_eq_true hcap, require_true, bind_ok]
  exact if_pos ((allZero_syndrome t r nsym).2 h)

theorem rsDecode_of_noisy (hcap : e.length ≤ nsym) (h : ¬ Codeword t r nsym) :
    rsDecode t r nsym e alg recheck =
      locatorBy t alg (syndrome t r nsym) e nsym >>= fun loc =>
        correctBlock t r (syndrome t r nsym) e loc nsym recheck := by
  rw [rsDecode, decide_eq_true hcap, require_true, bind_ok]
  exact if_neg (mt (allZero_syndrome t r nsym).1 h)

end

/-! The correction (rule R211, steps 3 to 5), test by test. -/

/-- The position of a root (45_roots.md rule R193). -/
def positionOf (t : Tables) (y : Byte) : Byte := BitVec.ofNat 8 ((255 - t.logAt y) % 255)

theorem positionsOf_eq_map (t : Tables) (roots : Poly) : positionsOf t roots = roots.map (positionOf t) := rfl

theorem toNat_positionOf (t : Tables) (y : Byte) : (positionOf t y).toNat = (255 - t.logAt y) % 255 := by
  rw [positionOf, BitVec.toNat_ofNat]
  omega

section
variable {t : Tables} {r e loc : Poly} {nsym : Nat} (syn : Poly) (recheck : Bool)

theorem correctBlock_of_degree (h : 2 * deg loc - e.length > nsym) :
    correctBlock t r syn e loc nsym recheck = .error .uncCapacity := by
  rw [correctBlock, validateLocator, decide_eq_false h.not_ge]
  rfl

variable (hdeg : 2 * deg loc - e.length ≤ nsym)
include hdeg

theorem correctBlock_of_miscount (h : ((scanRoots t loc).length : Int) ≠ deg loc) :
    correctBlock t r syn e loc nsym recheck = .error .uncFactor := by
  rw [correctBlock, validateLocator, decide_eq_true hdeg, findRoots_of_miscount h]
  rfl

variable (hcount : ((scanRoots t loc).length : Int) = deg loc)
include hcount

theorem correctBlock_of_empty (h : deg loc = 0) : correctBlock t r syn e loc nsym recheck = .error .uncEmpty := by
  rw [correctBlock, validateLocator, decide_eq_true hdeg, findRoots_of_count hcount, decide_eq_false (not_not.2 h)]
  rfl

variable (hne : deg loc ≠ 0)
include hne

theorem correctBlock_of_outside (h : ∃ y ∈ scanRoots t loc, (positionOf t y).toNat ≥ r.length) :
    correctBlock t r syn e loc nsym recheck = .error .uncPosrange := by
  obtain ⟨y, hy, hge⟩ := h
  have hany : (positionsOf t (scanRoots t loc)).all (fun p => p.toNat < r.length) = false :=
    List.all_eq_false.2 ⟨_, List.mem_map_of_mem hy, mt of_decide_eq_true hge.not_gt⟩
  rw [correctBlock, validateLocator, decide_eq_true hdeg, findRoots_of_count hcount, decide_eq_true hne]
  simp only [require_true, bind_ok, hany, require_false, bind_error]

variable (hin : ∀ y ∈ scanRoots t loc, (positionOf t y).toNat < r.length)
include hin

/-- With every position inside the block the magnitudes and the re-check decide. -/
theorem correctBlock_of_inside :
    correctBlock t r syn e loc nsym recheck = (do
      let mags ← forney t loc (evaluator t syn loc nsym) (positionsOf t (scanRoots t loc))
      let b := applyMags r (positionsOf t (scanRoots t loc)) mags
      require (!recheck || allZero (syndrome t b nsym)) .uncRecheck
      pure (b, (scanRoots t loc).length)) := by
  have hall : (positionsOf t (scanRoots t loc)).all (fun p => p.toNat < r.length) = true :=
    List.all_eq_true.2 (List.forall_mem_map.2 fun y hy => decide_eq_true (hin y hy))
  rw [correctBlock, validateLocator, decide_eq_true hdeg, findRoots_of_count hcount, decide_eq_true hne]
  simp only [require_true, bind_ok, hall, length_positionsOf]

theorem correctBlock_of_forney_error {c : Cause}
    (h : forney t loc (evaluator t syn loc nsym) (positionsOf t (scanRoots t loc)) = .error c) :
    correctBlock t r syn e loc nsym recheck = .error c := by
  rw [correctBlock_of_inside syn recheck hdeg hcount hne hin, h, bind_error]

variable {m : Poly} (hmags : forney t loc (evaluator t syn loc nsym) (positionsOf t (scanRoots t loc)) = .ok m)
include hmags

theorem correctBlock_of_recheck (hre : recheck = true)
    (h : ¬ Codeword t (applyMags r (positionsOf t (scanRoots t loc)) m) nsym) :
    correctBlock t r syn e loc nsym recheck = .error .uncRecheck := by
  rw [correctBlock_of_inside syn recheck hdeg hcount hne hin, hmags, bind_ok, hre]
  dsimp only
  rw [Bool.eq_false_iff.2 (mt (allZero_syndrome _ _ _).1 h)]
  rfl

theorem correctBlock_of_pass
    (h : recheck = false ∨ Codeword t (applyMags r (positionsOf t (scanRoots t loc)) m) nsym) :
    correctBlock t r syn e loc nsym recheck =
      .ok (applyMags r (positionsOf t (scanRoots t loc)) m, (scanRoots t loc).length) := by
  have hpass : (!recheck || allZero (syndrome t (applyMags r (positionsOf t (scanRoots t loc)) m) nsym)) = true := by
    rw [Bool.or_eq_true, Bool.not_eq_true', allZero_syndrome]
    exact h
  rw [correctBlock_of_inside syn recheck hdeg hcount hne hin, hmags, bind_ok]
  dsimp only
  rw [hpass]
  rfl

end

/-! A re-checked decode answers a codeword. -/

theorem codeword_of_correctBlock {t : Tables} {r syn e loc b : Poly} {nsym k : Nat}
    (h : correctBlock t r syn e loc nsym true = .ok (b, k)) : Codeword t b nsym := by
  simp only [correctBlock, bind_eq_ok, require_eq_ok, Bool.not_true, Bool.false_or] at h
  obtain ⟨-, -, -, -, -, -, m, -, -, hcheck, hb⟩ := h
  cases hb
  exact (allZero_syndrome _ _ _).1 hcheck

theorem codeword_of_rsDecode {t : Tables} {r e b : Poly} {nsym k : Nat} {alg : Algorithm}
    (h : rsDecode t r nsym e alg true = .ok (b, k)) : Codeword t b nsym := by
  have hcap : e.length ≤ nsym := by
    by_contra hgt
    rw [rsDecode_of_tooMany alg true (not_le.1 hgt)] at h
    cases h
  by_cases hword : Codeword t r nsym
  · rw [rsDecode_of_codeword alg true hcap hword] at h
    cases h
    exact hword
  · rw [rsDecode_of_noisy alg true hcap hword] at h
    obtain ⟨loc, -, hloc⟩ := bind_eq_ok.1 h
    exact codeword_of_correctBlock hloc

/-! Roots and positions. -/

/-- Positions below 256 are the values of a list of bytes. -/
theorem exists_map_toNat_eq {l : List Nat} (h : ∀ p ∈ l, p < 256) : ∃ pos : Poly, pos.map BitVec.toNat = l := by
  refine ⟨l.map (BitVec.ofNat 8), ?_⟩
  rw [List.map_map]
  refine (List.map_congr_left (g := id) fun p hp => ?_).trans (List.map_id l)
  exact (BitVec.toNat_ofNat p 8).trans (Nat.mod_eq_of_lt (h p hp))

/-- The roots in ascending order are those of the scan. -/
theorem eq_scanRoots {t : Tables} {p roots : Poly} (hsorted : roots.Pairwise fun x y => x.toNat < y.toNat)
    (hroots : ∀ y, y ∈ roots ↔ polyEval t p y = 0) : roots = scanRoots t p := by
  have hnodup : roots.Nodup := hsorted.imp fun hlt heq => absurd (congrArg BitVec.toNat heq) hlt.ne
  have hperm : roots.Perm (scanRoots t p) :=
    (List.perm_ext_iff_of_nodup hnodup (nodup_scanRoots t p)).2 fun y => (hroots y).trans mem_scanRoots.symm
  exact hperm.eq_of_pairwise (fun _ _ _ _ hxy hyx => absurd hxy hyx.not_gt) hsorted (pairwise_lt_scanRoots t p)

section
variable {c : Config} (hc : primitive c = true)
include hc

theorem logAt_built_alpha (i : Int) : (builtTables c).logAt ((builtTables c).alpha i) = (i % 255).toNat :=
  ((expAndLogAreInverse c hc).2 _ (by omega)).2

theorem positionOf_alpha_neg {p : Byte} (hp : p.toNat ≤ 254) :
    positionOf (builtTables c) ((builtTables c).alpha (-(p.toNat : Int))) = p := by
  refine BitVec.eq_of_toNat_eq ?_
  rw [toNat_positionOf, logAt_built_alpha hc]
  omega

theorem alpha_neg_positionOf {y : Byte} (hy : y ≠ 0) :
    (builtTables c).alpha (-((positionOf (builtTables c) y).toNat : Int)) = y := by
  obtain ⟨hlt, -⟩ := logAt_built_spec hc hy
  rw [toNat_positionOf, ← alpha_logAt_built hc hy, logAt_built_alpha hc]
  refine alpha_congr _ ?_
  rw [Int.ModEq]
  omega

/-- The locator of distinct positions gives these positions back. -/
theorem positionsOf_scanRoots_erasLoc {pos : Poly} (hnodup : pos.Nodup) (hpos : ∀ p ∈ pos, p.toNat ≤ 254) :
    (positionsOf (builtTables c) (scanRoots (builtTables c) (erasLoc (builtTables c) pos))).Perm pos := by
  have hback : (pos.map fun p => (builtTables c).alpha (-(p.toNat : Int))).map (positionOf (builtTables c)) = pos := by
    rw [List.map_map]
    exact (List.map_congr_left (g := id) fun p hp => positionOf_alpha_neg hc (hpos p hp)).trans (List.map_id pos)
  have hperm : (scanRoots (builtTables c) (erasLoc (builtTables c) pos)).Perm
      (pos.map fun p => (builtTables c).alpha (-(p.toNat : Int))) := by
    refine (List.perm_ext_iff_of_nodup (nodup_scanRoots _ _) (.of_map (positionOf (builtTables c)) ?_)).2 fun y => ?_
    · rwa [hback]
    · rw [mem_scanRoots, polyEval_erasLoc_eq_zero_iff hc, List.mem_map]
      simp only [eq_comm]
  rw [positionsOf_eq_map]
  exact (hperm.map _).trans (.of_eq hback)

theorem deg_erasLoc (e : Poly) : deg (erasLoc (builtTables c) e) = e.length := by
  have hlen := length_of_trimmed (trimmed_erasLoc hc e)
  rw [length_erasLoc hc] at hlen
  omega

/-- A polynomial with as many roots as its degree has simple roots only. -/
theorem polyEval_polyDeriv_ne_zero {loc : Poly}
    (hcount : ((scanRoots (builtTables c) loc).length : Int) = deg loc) {y : Byte}
    (hy : y ∈ scanRoots (builtTables c) loc) : polyEval (builtTables c) (polyDeriv loc) y ≠ 0 := by
  classical
  obtain ⟨K, _, ⟨f⟩⟩ := exists_fieldView hc
  have hne : f.poly loc ≠ 0 := fun h0 => by
    have hneg := f.poly_eq_zero.1 h0
    omega
  have hroot (x : Byte) : (f.poly loc).IsRoot (f.el x) ↔ x ∈ scanRoots (builtTables c) loc := by
    rw [mem_scanRoots, Polynomial.IsRoot, ← f.el_polyEval, f.el_eq_zero]
  have hnodup := (nodup_scanRoots (builtTables c) loc).map f.el.injective
  have hsub : (((scanRoots (builtTables c) loc).map f.el : List K) : Multiset K) ≤ (f.poly loc).roots := by
    refine (Multiset.le_iff_subset (Multiset.coe_nodup.2 hnodup)).2 fun z hz => ?_
    obtain ⟨x, hx, rfl⟩ := List.mem_map.1 (Multiset.mem_coe.1 hz)
    exact (Polynomial.mem_roots hne).2 ((hroot x).2 hx)
  have hall := Multiset.eq_of_le_of_card_le hsub (by
    have hdeg := f.natDegree_poly (p := loc) (by omega)
    have hcard := (f.poly loc).card_roots'
    rw [Multiset.coe_card, List.length_map]
    omega)
  have hsimple : (f.poly loc).rootMultiplicity (f.el y) ≤ 1 := by
    rw [← Polynomial.count_roots, ← hall]
    exact Multiset.nodup_iff_count_le_one.1 (Multiset.coe_nodup.2 hnodup) _
  intro hzero
  refine absurd ((Polynomial.one_lt_rootMultiplicity_iff_isRoot hne).2 ⟨(hroot y).2 hy, ?_⟩) hsimple.not_gt
  rw [← f.poly_polyDeriv, Polynomial.IsRoot, ← f.el_polyEval, hzero, f.el_zero]

/-- Once the roots are counted Forney's magnitudes exist (rule R211, note (d)). -/
theorem exists_forney_eq_ok {loc : Poly} (o : Poly) (hzero : coef loc 0 ≠ 0)
    (hcount : ((scanRoots (builtTables c) loc).length : Int) = deg loc) :
    ∃ m, forney (builtTables c) loc o (positionsOf (builtTables c) (scanRoots (builtTables c) loc)) = .ok m := by
  refine ⟨_, forney_of_ne_zero o (List.forall_mem_map.2 fun y hy => ?_)⟩
  have hy0 : y ≠ 0 := by
    rintro rfl
    exact hzero (by rw [← polyEval_zero, mem_scanRoots.1 hy])
  have hden := polyEval_polyDeriv_ne_zero hc hcount hy
  rwa [← alpha_neg_positionOf hc hy0] at hden

/-! A block within capacity (rule R213). -/

/-- A codeword that differs from another at few enough positions is that one: both are what the filler makes of it. -/
theorem codeword_eq_of_agreeOutside {r word pos : Poly} {nsym : Nat} (hlen : r.length ≤ 255)
    (hpos : ∀ p ∈ pos, p.toNat < r.length) (hnodup : pos.Nodup) (hcap : pos.length ≤ nsym)
    (hr : Codeword (builtTables c) r nsym) (hword : Codeword (builtTables c) word nsym)
    (hagree : AgreeOutside r word (pos.map BitVec.toNat)) : r = word :=
  (applyMags_fillMags hc hlen hpos hnodup hcap hr ⟨rfl, fun _ _ => rfl⟩).symm.trans
    (applyMags_fillMags hc hlen hpos hnodup hcap hword hagree)

/-- The locator of positions that cover the noise takes the noise away. -/
theorem correctBlock_erasLoc {r word pos e : Poly} {nsym : Nat} (recheck : Bool) (hlen : r.length ≤ 255)
    (hpos : ∀ p ∈ pos, p.toNat < r.length) (hnodup : pos.Nodup) (hcap : pos.length ≤ nsym)
    (htwice : 2 * pos.length ≤ nsym + e.length) (hne : pos ≠ [])
    (hword : Codeword (builtTables c) word nsym) (hagree : AgreeOutside r word (pos.map BitVec.toNat)) :
    correctBlock (builtTables c) r (syndrome (builtTables c) r nsym) e (erasLoc (builtTables c) pos) nsym recheck =
      .ok (word, pos.length) := by
  have hbound (p : Byte) (hp : p ∈ pos) : p.toNat ≤ 254 := Nat.le_of_lt_succ ((hpos p hp).trans_le hlen)
  have hperm := positionsOf_scanRoots_erasLoc hc hnodup hbound
  have hdeg := deg_erasLoc hc pos
  have hcount : (scanRoots (builtTables c) (erasLoc (builtTables c) pos)).length = pos.length := by
    rw [← hperm.length_eq, length_positionsOf]
  have hin : ∀ y ∈ scanRoots (builtTables c) (erasLoc (builtTables c) pos),
      (positionOf (builtTables c) y).toNat < r.length := fun y hy =>
    hpos _ (hperm.mem_iff.1 (List.mem_map_of_mem hy))
  have hlist := List.length_pos_iff.2 hne
  have hforney := forney_erasLoc hc (hperm.nodup_iff.2 hnodup) (fun p hp => hbound p (hperm.mem_iff.1 hp)) r nsym
  rw [erasLoc_perm hc hperm] at hforney
  have happly := applyMags_fillMags hc (pos := positionsOf (builtTables c) _) hlen
    (fun p hp => hpos p (hperm.mem_iff.1 hp)) (hperm.nodup_iff.2 hnodup) (hperm.length_eq.trans_le hcap) hword
    ⟨hagree.1, fun i hi => hagree.2 i (mt (hperm.map BitVec.toNat).mem_iff.2 hi)⟩
  rw [correctBlock_of_pass _ recheck (by omega) (by omega) (by omega) hin hforney (.inr (by rwa [happly])), happly,
    hcount]

/-- The selected solver within capacity (44_locator.md rule R180), for a block and the codeword it came from. -/
theorem locatorBy_of_agreeOutside {r word e : Poly} {err : List Nat} {nsym : Nat} (alg : Algorithm)
    (hnsym : nsym ≤ 255) (hword : Codeword (builtTables c) word nsym) (hnodup : (e.map BitVec.toNat ++ err).Nodup)
    (hpos : ∀ p ∈ e.map BitVec.toNat ++ err, p ≤ 254) (hcap : 2 * err.length + e.length ≤ nsym)
    (herr : ∀ p ∈ err, coef r p ≠ coef word p) (hagree : AgreeOutside r word (e.map BitVec.toNat ++ err)) :
    locatorBy (builtTables c) alg (syndrome (builtTables c) r nsym) e nsym =
      .ok (locatorOf (builtTables c) (e.map BitVec.toNat ++ err)) := by
  have hsum (i : Nat) : coef (polyAdd word (polyAdd word r)) i = coef r i := by
    rw [coef_polyAdd, coef_polyAdd, ← BitVec.xor_assoc, xor_self_byte, zero_xor_byte]
  have hnoise (i : Nat) : coef (polyAdd word r) i = 0 ↔ coef r i = coef word i := by
    rw [coef_polyAdd]
    exact BitVec.xor_eq_zero_iff.trans eq_comm
  obtain ⟨heuclid, hbm⟩ := solversAgreeWithinCapacity c word (polyAdd word r) e err nsym hc hnsym hword hnodup hpos hcap
    (fun p hp => mt (hnoise p).1 (herr p hp)) fun p hp => (hnoise p).2 (hagree.2 p hp)
  rw [syndrome_congr _ hsum] at heuclid hbm
  cases alg with
  | euclid => exact heuclid
  | berlekampMassey => exact congrArg Except.ok hbm

end

/-- The two ways the selected solver can answer a locator have the constant term 1. -/
theorem coef_zero_of_locatorBy {c : Config} (hc : primitive c = true) {alg : Algorithm} {syn e loc : Poly} {nsym : Nat}
    (hcap : e.length ≤ nsym) (h : locatorBy (builtTables c) alg syn e nsym = .ok loc) : coef loc 0 = 1 := by
  cases alg with
  | euclid =>
    obtain ⟨hv, rfl⟩ := euclidLocator_eq_ok h
    exact coef_zero_normalLocator hc hv (coef_zero_erasLoc hc e)
  | berlekampMassey =>
    cases h
    exact (bmLocator_bounds hc syn e hcap).1

end Sys2Proof.Machine
end

section
/-! The statements of 47_orchestrator.md. -/

open Sys2Proof Sys2Proof.Machine

/-- Settles O39: the operand tests, the capacity and the zero syndrome come before the locator, and a count of 0 passes
strict mode. -/
theorem rsdecReturnsCodewordUnchanged : Obligations.RsdecReturnsCodewordUnchanged := by
  intro s d a e
  refine ⟨decodeOfEncode (.rsdec d a e) rfl,
    fun hout => exec_rsdec_of_error d (decodeBlock_of_outOfRange (not_blockInRange hout)),
    fun hmin hmax hnsym hin hnodup => ?_⟩
  have hdecode := decodeBlock_of_inRange (s := s) (a := a) (e := e) ⟨hmin, hmax, hnsym, hin, hnodup⟩
  refine ⟨fun hmany _ => ?_, fun hcap hword => ?_⟩
  · rw [rsDecode_of_tooMany _ _ hmany] at hdecode
    exact exec_rsdec_of_error d hdecode
  · rw [rsDecode_of_codeword _ _ hcap hword] at hdecode
    exact exec_rsdec_of_ok d hdecode (.inr rfl)

/-- Settles O40: the re-check is the zero syndrome of the block that is written, so the second decode returns at
once. -/
theorem recheckedDecodeIsIdempotent : Obligations.RecheckedDecodeIsIdempotent := by
  intro s t d a e d' e' hrecheck h hok
  obtain ⟨b, k, hdecode, rfl⟩ := decodeBlock_of_exec_ok h hok
  obtain ⟨hin, hrs⟩ := decodeBlock_eq_ok hdecode
  have hlen := length_of_rsDecode hrs
  rw [hrecheck] at hrs
  have hword := codeword_of_rsDecode hrs
  generalize ht : (((s.setP d b).setNcorr k).setSz (k = 0)).complete = t
  have hb : t.getP d = b := by
    rw [← ht, State.getP_complete, State.getP_setSz, State.getP_setNcorr, State.getP_setP_self]
  have hnsym : t.nsym = s.nsym := by rw [← ht]; rfl
  have htables : t.tables = s.tables := by rw [← ht]; rfl
  rw [← hb] at hlen hword
  refine ⟨hlen, hword, fun hempty => ?_⟩
  rw [← hnsym, ← htables] at hword
  have hagain : BlockInRange t.nsym.toNat (t.getP d) (t.getP e') := by
    rw [hempty, hnsym]
    exact ⟨hin.length_pos.trans_eq hlen.symm, hlen.trans_le hin.length_le, hin.nsym_le.trans_eq hlen.symm, nofun,
      List.nodup_nil⟩
  refine exec_rsdec_of_ok d' ((decodeBlock_of_inRange hagain).trans (rsDecode_of_codeword _ _ ?_ hword)) (.inr rfl)
  rw [hempty]
  exact Nat.zero_le _

/-- Settles O41: the locator of the declared and the erroneous positions has roots at these positions only, and
Forney's magnitudes there are the noise. -/
theorem rsdecCorrectsWithinCapacity : Obligations.RsdecCorrectsWithinCapacity := by
  rintro s d a e c err ⟨hc, htab⟩ hlax hmin hmax hnsym hnodup hpos hcap hword hagree herr
  have hin : BlockInRange s.nsym.toNat (s.getP a) (s.getP e) :=
    ⟨hmin, hmax, hnsym, fun p hp => hpos _ (List.mem_append_left _ (List.mem_map_of_mem hp)),
      (List.nodup_append.1 hnodup).1.of_map _⟩
  obtain ⟨pos, hmap⟩ := exists_map_toNat_eq fun p hp => (hpos p hp).trans_le (hmax.trans (Nat.le_succ 255))
  have hcount : pos.length = (s.getP e).length + err.length := by
    simpa using congrArg List.length hmap
  have hbound (p : Nat) (hp : p ∈ (s.getP e).map BitVec.toNat ++ err) : p ≤ 254 :=
    Nat.le_of_lt_succ ((hpos p hp).trans_le hmax)
  have hpos' : ∀ p ∈ pos, p.toNat < (s.getP a).length := fun p hp => hpos _ (hmap ▸ List.mem_map_of_mem hp)
  have hnodup' : pos.Nodup := (hmap ▸ hnodup).of_map _
  have hagree' : AgreeOutside (s.getP a) c (pos.map BitVec.toNat) := hmap ▸ hagree
  have hdecode := decodeBlock_of_inRange hin
  rw [htab] at hword hdecode
  by_cases hzero : Codeword (builtTables s.cfg) (s.getP a) s.nsym.toNat
  · have heq := codeword_eq_of_agreeOutside hc hmax hpos' hnodup' (by omega) hzero hword hagree'
    rw [rsDecode_of_codeword _ _ (by omega) hzero] at hdecode
    refine ⟨_, exec_rsdec_of_ok d hdecode (.inr rfl), rfl, ?_, ?_⟩
    · rw [State.getP_complete, State.getP_setSz, State.getP_setNcorr, State.getP_setP_self, heq]
    · rw [if_pos heq]
      rfl
  · have hne : s.getP a ≠ c := fun heq => hzero (heq ▸ hword)
    have hnil : pos ≠ [] := by
      rintro rfl
      have hsyn := syndrome_congr (builtTables s.cfg) (fun i => hagree'.2 i List.not_mem_nil) s.nsym.toNat
      exact hzero ((allZero_syndrome _ _ _).1 (hsyn ▸ (allZero_syndrome _ _ _).2 hword))
    rw [rsDecode_of_noisy _ _ (by omega) hzero, locatorBy_of_agreeOutside hc _ (by omega) hword hnodup hbound hcap herr
      hagree, bind_ok, ← hmap, locatorOf_toNat, correctBlock_erasLoc hc _ hmax hpos' hnodup' (by omega) (by omega) hnil
      hword hagree'] at hdecode
    refine ⟨_, exec_rsdec_of_ok d hdecode (.inl hlax), rfl, ?_, ?_⟩
    · rw [State.getP_complete, State.getP_setSz, State.getP_setNcorr, State.getP_setP_self]
    · rw [if_neg hne, ← hcount]
      rfl

/-- Settles O43: the decode does not read `NOERROR`, and SZ says whether it corrected something. -/
theorem strictModeReplacesCorrections : Obligations.StrictModeReplacesCorrections := by
  intro s t d a e hlax h
  cases hdecode : s.decodeBlock a e with
  | error c =>
    have hstrict : ({ s with ctrl := { s.ctrl with noerror := true } } : State).decodeBlock a e = .error c := hdecode
    cases h.symm.trans (exec_rsdec_of_error d hdecode)
    refine ⟨fun hok => ?_, fun _ => exec_rsdec_of_error d hstrict⟩
    cases (hok : c = .ok)
    exact absurd hdecode decodeBlock_ne_error_ok
  | ok ck =>
    obtain ⟨b, k⟩ := ck
    have hstrict : ({ s with ctrl := { s.ctrl with noerror := true } } : State).decodeBlock a e = .ok (b, k) := hdecode
    cases h.symm.trans (exec_rsdec_of_ok d hdecode (.inl hlax))
    refine ⟨fun _ hsz => exec_rsdec_of_strict d hstrict rfl ?_, fun hsz => ?_⟩
    · exact Nat.pos_of_ne_zero (of_decide_eq_false hsz)
    · have hk : k = 0 := of_decide_eq_true (hsz.resolve_left (not_not.2 rfl))
      exact exec_rsdec_of_ok d hstrict (.inr hk)

/-- Settles O42: the list of roots is that of the scan, and each test of the correction decides when the tests before it
passed. -/
theorem rsdecReportsFirstCause : Obligations.RsdecReportsFirstCause := by
  rintro s d a e syn loc roots hmin hmax hnsym hin hnodup hcap rfl hnoisy
  have hdecode := decodeBlock_of_inRange (s := s) (a := a) (e := e) ⟨hmin, hmax, hnsym, hin, hnodup⟩
  rw [rsDecode_of_noisy _ _ hcap hnoisy] at hdecode
  refine ⟨fun halg heuclid => ?_, fun hsolver hsorted hroots => ?_⟩
  · rw [halg, locatorBy, heuclid, bind_error] at hdecode
    exact exec_rsdec_of_error d hdecode
  have hloc : locatorBy s.tables s.ctrl.alg (syndrome s.tables (s.getP a) s.nsym.toNat) (s.getP e) s.nsym.toNat =
      .ok loc := by
    obtain ⟨halg, h⟩ | ⟨halg, h⟩ := hsolver
    · rw [halg, locatorBy, h]
    · rw [halg, locatorBy, h]
  rw [hloc, bind_ok] at hdecode
  obtain rfl := eq_scanRoots hsorted hroots
  refine ⟨fun hgt => exec_rsdec_of_error d (hdecode.trans (correctBlock_of_degree _ _ hgt)), fun hdeg =>
    ⟨fun hmiss => exec_rsdec_of_error d (hdecode.trans (correctBlock_of_miscount _ _ hdeg hmiss)), fun hcount =>
    ⟨fun hempty => exec_rsdec_of_error d (hdecode.trans (correctBlock_of_empty _ _ hdeg hcount hempty)), fun hne =>
    ⟨fun hout => exec_rsdec_of_error d (hdecode.trans (correctBlock_of_outside _ _ hdeg hcount hne ?_)),
      fun hinside => ?_⟩⟩⟩⟩
  · simpa only [toNat_positionOf] using hout
  replace hinside : ∀ y ∈ scanRoots s.tables loc, (positionOf s.tables y).toNat < (s.getP a).length := by
    simpa only [toNat_positionOf] using hinside
  rintro pos rfl
  refine ⟨fun ⟨hc, htab⟩ => ?_, fun why hforney => ?_, ?_⟩
  · rw [htab] at hloc hcount ⊢
    have hone := coef_zero_of_locatorBy hc hcap hloc
    exact exists_forney_eq_ok hc _ (by rw [hone]; decide) hcount
  · have hwhy : why = .cfgForneyDen := magnitudes_error hforney
    subst hwhy
    exact ⟨rfl, exec_rsdec_of_error d
      (hdecode.trans (correctBlock_of_forney_error _ _ hdeg hcount hne hinside hforney))⟩
  · rintro m c hforney rfl
    refine ⟨fun hre hbad => exec_rsdec_of_error d
      (hdecode.trans (correctBlock_of_recheck _ _ hdeg hcount hne hinside hforney hre hbad)), fun hgood => ?_⟩
    have hpass := hdecode.trans (correctBlock_of_pass _ _ hdeg hcount hne hinside hforney hgood)
    have hlen : (scanRoots s.tables loc).length ≠ 0 := by omega
    refine ⟨fun hstrict => exec_rsdec_of_strict d hpass hstrict (Nat.pos_of_ne_zero hlen), fun hlax => ?_⟩
    rw [exec_rsdec_of_ok d hpass (.inl hlax), decide_eq_false hlen]
    rfl
end
